-- ==== Sys2Proof/Word.lean ====
section
/-! DEFINITION. The data the core works on (00_scope.md rules R12, R13): a byte, and a finite sequence of bytes. -/

namespace Sys2Proof

/-- A byte: an 8-bit value, bit 0 the least significant (R12). A symbol of the error-correcting code is a byte too (R19). -/
abbrev Byte := BitVec 8

/-- A finite byte sequence, numbered from 0 (R13). -/
abbrev Bytes := List Byte

end Sys2Proof
end

