-- ==== Sys2Proof/Syntax.lean ====
section
/-! DEFINITION. The commands: one constructor for each of the 21 rows of spec/opcode_table.json (30_encoding.md rule R70).
Every constructor carries the packet's operand bytes `OP` as received (R66): `LEN` is their number. A packet whose `LEN` is
outside the command's legal range is still that command (it answers BAD_LENGTH, R229), so the operand is not narrowed here;
Machine/Operands.lean reads it by the command's format. -/

namespace Sys2Proof

/-- The command set (R70). -/
inductive Instr where
  /-- 0x01 FC.ESC, format OB (R94). -/
  | fcEsc (op : Bytes)
  /-- 0x02 FC.UNESC, format OB (R95). -/
  | fcUnesc (op : Bytes)
  /-- 0x03 FC.FRAME, format OA (R96). -/
  | fcFrame (op : Bytes)
  /-- 0x04 FC.RX, format O1 (R103). -/
  | fcRx (op : Bytes)
  /-- 0x05 FC.RXRST, format O0 (R104). -/
  | fcRxrst (op : Bytes)
  /-- 0x10 DL.FIND, format OB (R118). -/
  | dlFind (op : Bytes)
  /-- 0x20 DS.DESC, format OB (R128). -/
  | dsDesc (op : Bytes)
  /-- 0x21 DS.DESCS, format OS (R129). -/
  | dsDescs (op : Bytes)
  /-- 0x30 FEC.HCHK, format OH (R157). -/
  | fecHchk (op : Bytes)
  /-- 0x31 FEC.HDEC, format OH (R158). -/
  | fecHdec (op : Bytes)
  /-- 0x32 FEC.PCHK, format OPB (R159). -/
  | fecPchk (op : Bytes)
  /-- 0x33 FEC.PDEC, format OPB (R160). -/
  | fecPdec (op : Bytes)
  /-- 0x40 CR.REC, format O4 (R175). -/
  | crRec (op : Bytes)
  /-- 0x50 CRC.CALC, format OB (R177). -/
  | crcCalc (op : Bytes)
  /-- 0x51 CRC.REF, format OB (R178). -/
  | crcRef (op : Bytes)
  /-- 0x60 PA.FRAME, format OB (R197). -/
  | paFrame (op : Bytes)
  /-- 0x61 PA.CAPT, format OB (R200). -/
  | paCapt (op : Bytes)
  /-- 0x70 NOP, format O0 (R216). -/
  | nop (op : Bytes)
  /-- 0x71 REG.RD, format OR (R217). -/
  | regRd (op : Bytes)
  /-- 0x72 CNT.CLR, format O0 (R218). -/
  | cntClr (op : Bytes)
  /-- 0x7F RESET, format O0 (R219). -/
  | reset (op : Bytes)
deriving DecidableEq, Repr

/-- The operand bytes `OP` of a command (R46). -/
def Instr.operand : Instr → Bytes
  | .fcEsc op => op
  | .fcUnesc op => op
  | .fcFrame op => op
  | .fcRx op => op
  | .fcRxrst op => op
  | .dlFind op => op
  | .dsDesc op => op
  | .dsDescs op => op
  | .fecHchk op => op
  | .fecHdec op => op
  | .fecPchk op => op
  | .fecPdec op => op
  | .crRec op => op
  | .crcCalc op => op
  | .crcRef op => op
  | .paFrame op => op
  | .paCapt op => op
  | .nop op => op
  | .regRd op => op
  | .cntClr op => op
  | .reset op => op

end Sys2Proof
end

