-- ==== Sys2Proof/WellFormed.lean ====
section
/-! DEFINITION. Which commands a packet can carry: the only bound the packet format puts on a command is that its operand
length fits the 32-bit `LEN` field (30_encoding.md rule R66). The `LEN` ranges of R70 are not a matter of form: a packet
outside them is a command that answers BAD_LENGTH (R229). -/

namespace Sys2Proof

/-- The command can be written as a packet: `LEN` fits its 32-bit field (R66). -/
abbrev Instr.WellFormed (i : Instr) : Prop := i.operand.length < 2 ^ 32

end Sys2Proof
end

