-- ==== Sys2Proof/Decode.lean ====
section
/-! DEFINITION. Byte order, the command packet, the opcode map, and the decoder and encoder of command packets
(00_scope.md rule R13, 20_memory.md rule R51, 30_encoding.md rules R66 to R71, R85). -/

namespace Sys2Proof

/-- `s[a ..< b]`, the bytes `a` to `b − 1` (R13). -/
def slice (a b : Nat) (s : Bytes) : Bytes := (s.take b).drop a

/-- `u16be(v)`, most significant byte first (R13, R51). -/
def u16be (v : BitVec 16) : Bytes := [v.extractLsb' 8 8, v.extractLsb' 0 8]

/-- `u32be(v)`, most significant byte first (R13, R51). -/
def u32be (v : BitVec 32) : Bytes :=
  [v.extractLsb' 24 8, v.extractLsb' 16 8, v.extractLsb' 8 8, v.extractLsb' 0 8]

/-- `be16` of two bytes, the first one the more significant (R13, R51). -/
def be16 (b1 b0 : Byte) : BitVec 16 := b1 ++ b0

/-- `be32` of four bytes, the first one the most significant (R13, R51). -/
def be32 (b3 b2 b1 b0 : Byte) : BitVec 32 := b3 ++ b2 ++ b1 ++ b0

/-- The opcode byte of a command (R70). -/
def Instr.opcode : Instr → Byte
  | .fcEsc _ => 0x01#8
  | .fcUnesc _ => 0x02#8
  | .fcFrame _ => 0x03#8
  | .fcRx _ => 0x04#8
  | .fcRxrst _ => 0x05#8
  | .dlFind _ => 0x10#8
  | .dsDesc _ => 0x20#8
  | .dsDescs _ => 0x21#8
  | .fecHchk _ => 0x30#8
  | .fecHdec _ => 0x31#8
  | .fecPchk _ => 0x32#8
  | .fecPdec _ => 0x33#8
  | .crRec _ => 0x40#8
  | .crcCalc _ => 0x50#8
  | .crcRef _ => 0x51#8
  | .paFrame _ => 0x60#8
  | .paCapt _ => 0x61#8
  | .nop _ => 0x70#8
  | .regRd _ => 0x71#8
  | .cntClr _ => 0x72#8
  | .reset _ => 0x7F#8

/-- The command an opcode byte names, with its operand bytes; `none` for every illegal opcode (R70, R71). -/
def decodeOpcode (opc : Byte) (op : Bytes) : Option Instr :=
  match opc.toNat with
  | 0x01 => some (.fcEsc op)
  | 0x02 => some (.fcUnesc op)
  | 0x03 => some (.fcFrame op)
  | 0x04 => some (.fcRx op)
  | 0x05 => some (.fcRxrst op)
  | 0x10 => some (.dlFind op)
  | 0x20 => some (.dsDesc op)
  | 0x21 => some (.dsDescs op)
  | 0x30 => some (.fecHchk op)
  | 0x31 => some (.fecHdec op)
  | 0x32 => some (.fecPchk op)
  | 0x33 => some (.fecPdec op)
  | 0x40 => some (.crRec op)
  | 0x50 => some (.crcCalc op)
  | 0x51 => some (.crcRef op)
  | 0x60 => some (.paFrame op)
  | 0x61 => some (.paCapt op)
  | 0x70 => some (.nop op)
  | 0x71 => some (.regRd op)
  | 0x72 => some (.cntClr op)
  | 0x7F => some (.reset op)
  | _ => none

/-- What the command parser finds at the head of the bytes that have arrived (R67). -/
inductive Decoded where
  /-- A whole packet of `size` bytes with a legal opcode. -/
  | command (i : Instr) (size : Nat)
  /-- A whole packet of `size` bytes whose opcode is illegal (R71): it is read, discarded and answered (R228). -/
  | illegalOpcode (opc : Byte) (size : Nat)
  /-- Fewer than `5 + LEN` bytes have arrived: the block waits (R67, R259). -/
  | incomplete
deriving DecidableEq, Repr

/-- The command parser (R66, R67, R85): `OPC`, four `LEN` bytes, then exactly `LEN` operand bytes; the packet is `5 + LEN`
bytes long, and no part of it is looked at before all of it is there. Total on any bytes. -/
def decode : Bytes → Decoded
  | opc :: l3 :: l2 :: l1 :: l0 :: rest =>
    let len := (be32 l3 l2 l1 l0).toNat
    if rest.length < len then .incomplete
    else
      match decodeOpcode opc (rest.take len) with
      | some i => .command i (5 + len)
      | none => .illegalOpcode opc (5 + len)
  | _ => .incomplete

/-- The packet of a command: `OPC ++ u32be(LEN) ++ OPERAND` (R66, R86). -/
def encode (i : Instr) : Bytes :=
  i.opcode :: u32be (BitVec.ofNat 32 i.operand.length) ++ i.operand

/-- The command of a packet that stands alone and whole; `none` where the decoder refuses. -/
def decodePacket (bs : Bytes) : Option Instr :=
  match decode bs with
  | .command i _ => some i
  | .illegalOpcode _ _ => none
  | .incomplete => none

/-- The `nbits / 8` bytes of a number laid out in port order: bits 7..0 are the first byte on the port, bits 15..8 the next. -/
def wordBytes (nbits w : Nat) : Bytes :=
  (List.range (nbits / 8)).map fun k => BitVec.ofNat 8 (w >>> (8 * k))

/-- Zero bytes added behind `bs` up to a length of `n`. -/
def padZeros (n : Nat) (bs : Bytes) : Bytes := bs ++ List.replicate (n - bs.length) 0

/-- The operand length a packet announces in bytes 1 to 4 (R66). -/
def announcedLen (bs : Bytes) : Nat :=
  (be32 (bs.getD 1 0) (bs.getD 2 0) (bs.getD 3 0) (bs.getD 4 0)).toNat

/-- The packet whose first `nbits` bits are `w` (bit 0 the least significant bit of the first byte) and whose other bits are 0,
as long as its own `LEN` field says (R66). -/
def tablePacket (nbits w : Nat) : Bytes :=
  let head := padZeros 5 (wordBytes nbits w)
  padZeros (5 + announcedLen head) head

/-- The command the decoder reads from a packet given as an opcode-table row gives it. -/
def decodeTableWord (nbits w : Nat) : Option Instr := decodePacket (tablePacket nbits w)

end Sys2Proof
end

