-- ==== Sys2Proof/Config.lean ====
section
/-! DEFINITION. The parameters the source leaves open (00_scope.md rule R10), as one record of plain data, and the values
that neither the source nor the spec gives, as constants without a body. -/

namespace Sys2Proof

/-- Where the spare ("destination") byte of a frame body stands (R10, R188). -/
inductive SparePos where
  /-- After the encoded checksum: the last byte of the body. -/
  | trail
  /-- Before the header: the first byte of the body. -/
  | lead
deriving DecidableEq, Repr

/-- The correction table of ChecksumRecovery (R171): total on the 256 byte values, every entry a 4-bit value (law L3 is the type). -/
abbrev NibbleTable := Vector (BitVec 4) 256

/-- The parameters of R10. They are configuration, not state: no command and no reset writes them (R21, R254).
The ranges and laws they must satisfy are `Machine.configValid`. -/
structure Config where
  /-- `RS_FCR`, the exponent of the first consecutive root, 0..254. -/
  rsFcr : Nat
  /-- `RS_GEN`, the primitive element whose powers are the roots. -/
  rsGen : Byte
  /-- `CRC_POLY`. -/
  crcPoly : BitVec 16
  /-- `CRC_REFLECT`. -/
  crcReflect : Bool
  /-- `CRC_XOROUT`. -/
  crcXorout : BitVec 16
  /-- `CRC_PREFIX`, 16 bytes, where it is given; `none` leaves it OPEN (R10, R179). `Config.crcPrefix` reads it. -/
  givenPrefix : Option (Vector Byte 16)
  /-- `NIBBLE_TABLE`, under the laws of R171, where it is given; `none` leaves it OPEN (R10, R171). `Config.nibbleTable`
  (Machine/Params.lean) reads it. -/
  givenTable : Option NibbleTable
  /-- `SPARE_POS`. -/
  sparePos : SparePos
  /-- `DESCRAMBLE_UNCORRECTED`. -/
  descrambleUncorrected : Bool
  /-- `MAX_OPERAND`, 1..2^32-1. -/
  maxOperand : Nat
  /-- `RXBUF_MAX`, 1..65535. -/
  rxbufMax : Nat
deriving DecidableEq, Repr

/-- FREE VALUE (R179, D14): the 16 bytes of `CRC_PREFIX`. No value is decided; see notes/assumptions/2.md. -/
opaque Config.openCrcPrefix : Vector Byte 16

/-- `CRC_PREFIX` (R10, R179). -/
def Config.crcPrefix (c : Config) : Vector Byte 16 := c.givenPrefix.getD Config.openCrcPrefix

/-- FREE VALUE (R171, D15): the 256 entries of a table of nibbles, of which nothing is known.
`Machine.openLawfulTable` takes it as `NIBBLE_TABLE` when it meets the laws of R171; see notes/assumptions/3.md. -/
opaque Config.openNibbleTable : NibbleTable

/-- FREE VALUE: the `RLEN` field of a response whose result has the given length, for a length of 2^32 or more, which the
32-bit field cannot hold (R63 excludes it only when `MAX_OPERAND ≤ 2^31 − 1`); see notes/assumptions/6.md. -/
opaque Config.openRlen : Nat → BitVec 32

end Sys2Proof
end

