-- ==== Sys2Proof/Machine/Galois.lean ====
section
/-! DEFINITION. The field GF(2^8) of 43_blockfec.md section 1 (rules R141 to R143), and polynomials over it as coefficient
lists, lowest power first (the convention of R152). -/

namespace Sys2Proof.Machine

/-- Multiplication by `x` modulo `GF_POLY = 0x11D` (R141): the 9-bit `a << 1`, reduced when its bit 8 is set. -/
def gfXtime (a : Byte) : Byte :=
  if a.getLsbD 7 then (a <<< 1) ^^^ 0x1D#8 else a <<< 1

/-- The loop of `GF_MUL` (R141): `k` bits of `b` are left, `p` is the sum so far. -/
def gfMulLoop : Nat → Byte → Byte → Byte → Byte
  | 0, _, _, p => p
  | k + 1, a, b, p => gfMulLoop k (gfXtime a) (b >>> 1) (if b.getLsbD 0 then p ^^^ a else p)

/-- `a ⊗ b` (R141: `GF_MUL`). -/
def gfMul (a b : Byte) : Byte := gfMulLoop 8 a b 0

/-- `a ^ e` by repeated multiplication, `e` a natural number (R17). -/
def gfPow (a : Byte) : Nat → Byte
  | 0 => 1#8
  | e + 1 => gfMul (gfPow a e) a

/-- `a` to the power `2 + 4 + … + 2^k`, by `k` squarings. -/
def gfInvLoop : Nat → Byte → Byte
  | 0, _ => 1#8
  | k + 1, a => gfMul (gfMul a a) (gfInvLoop k (gfMul a a))

/-- `a⁻¹` for `a ≠ 0` (R143), as `a ^ 254`: the nonzero elements have order dividing 255. Never used on 0 (R143). -/
def gfInv (a : Byte) : Byte := gfInvLoop 7 a

/-- `[x, x ⊗ g, x ⊗ g^2, …]`, `n` entries. -/
def gfPowersFrom (g : Byte) : Nat → Byte → Bytes
  | 0, _ => []
  | n + 1, x => x :: gfPowersFrom g n (gfMul x g)

/-- The ROM table `GF_EXP[0..254]` (R37, R142): the powers of 0x02. DESIGN CHOICE, safe (notes/assumptions/11.md): the base is
0x02 in every configuration, as R142 says; R37's contents column says `RS_GEN`, and no ruling settles it. -/
def gfExpTable : Bytes := gfPowersFrom 0x02#8 255 1#8

/-- `GF_EXP[e]` for `e` taken modulo 255 (R142). -/
def gfExp (e : Nat) : Byte := gfExpTable.getD (e % 255) 0

/-- `GF_LOG[v]` for `v ≠ 0` (R142): the `e` with `GF_EXP[e] = v`. `GF_LOG[0]` is undefined and never read (R142, I25). The base
is that of `gfExpTable`: 0x02 as R142 says, not `RS_GEN` as R37 does (DESIGN CHOICE, safe, notes/assumptions/11.md). -/
def gfLog (v : Byte) : Nat := gfExpTable.idxOf v

/-- `g` is a primitive element: not 0, and none of `g^1 … g^254` is 1 (R164). -/
def gfPrimitive (g : Byte) : Bool :=
  g != 0#8 && (gfPowersFrom g 254 g).all (· != 1#8)

/-- Sum of two polynomials. -/
def polyAdd : Bytes → Bytes → Bytes
  | [], q => q
  | p, [] => p
  | a :: p, b :: q => (a ^^^ b) :: polyAdd p q

/-- A polynomial times a field element. -/
def polyScale (c : Byte) (p : Bytes) : Bytes := p.map (gfMul c)

/-- A polynomial times `x^m`. -/
def polyShift (m : Nat) (p : Bytes) : Bytes := List.replicate m 0 ++ p

/-- Product of two polynomials. -/
def polyMul : Bytes → Bytes → Bytes
  | [], _ => []
  | a :: p, q => polyAdd (polyScale a q) (0 :: polyMul p q)

/-- The value of a polynomial at a point. -/
def polyEval (p : Bytes) (x : Byte) : Byte := p.foldr (fun c acc => c ^^^ gfMul x acc) 0

/-- Horner's rule for a polynomial whose first byte is the highest power: `y <- (y ⊗ x) ⊕ b` over the bytes (R148). -/
def hornerHigh (x : Byte) (r : Bytes) : Byte := r.foldl (fun y b => gfMul y x ^^^ b) 0#8

/-- The degree, with 0 for the zero polynomial. -/
def polyDeg (p : Bytes) : Nat := (p.reverse.dropWhile (· == 0)).length - 1

/-- Every second coefficient kept, beginning with the first, the others 0. -/
def keepAlternate : Bytes → Bytes
  | [] => []
  | [a] => [a]
  | a :: _ :: p => a :: 0 :: keepAlternate p

/-- The formal derivative: in characteristic 2 only the odd-power terms remain, each one power lower (R152). -/
def polyDeriv (p : Bytes) : Bytes := keepAlternate p.tail

end Sys2Proof.Machine
end

