-- ==== Sys2Proof/Machine/Params.lean ====
section
/-! DEFINITION. The fixed constants (00_scope.md rules R8, R9), what makes a set of parameters a configuration of this block
(R10, R164, R171; 93_implementation_defined.md I6, I9), the decided configuration (R10) and the test configuration TC0 (R11). -/

namespace Sys2Proof.Machine

/-- `FEND`, the sentinel (R8, R91). -/
def fend : Byte := 0xC0#8
/-- `FESC`, the escape byte (R8, R91). -/
def fesc : Byte := 0xDB#8
/-- `TFEND`, the second byte of an escaped sentinel (R8, R91). -/
def tfend : Byte := 0xDC#8
/-- `TFESC`, the second byte of an escaped escape (R8, R91). -/
def tfesc : Byte := 0xDD#8
/-- `MARKER` (R8, R116). -/
def marker : Bytes := [0xAA#8, 0xF1#8, 0x5E#8, 0x48#8]
/-- `DS_INIT` (R8, R126). -/
def dsInit : BitVec 9 := 0x1F0#9
/-- `CRC_INIT` (R8, R176). -/
def crcInit : BitVec 16 := 0xFFFF#16
/-- `HDR_LEN` (R8). -/
def hdrLen : Nat := 13
/-- `HPAR_LEN`, the redundancy `t_H` of the header code (R8). -/
def hparLen : Nat := 2
/-- `PPAR_LEN`, the redundancy `t_P` of the payload code (R8). -/
def pparLen : Nat := 16
/-- `ECS_LEN` (R8). -/
def ecsLen : Nat := 4
/-- `SPARE_LEN` (R8). -/
def spareLen : Nat := 1
/-- `OVERHEAD`, 36 bytes (R9). -/
def overhead : Nat := hdrLen + hparLen + pparLen + ecsLen + spareLen
/-- `RS_NMAX` (R9). -/
def rsNmax : Nat := 255
/-- `P_MAX`, 239 bytes (R9). -/
def pMax : Nat := rsNmax - pparLen

/-- `NIBBLE_TABLE[b]` (R171). -/
def nibbleAt (t : NibbleTable) (b : Byte) : BitVec 4 := t[b.toNat]'b.isLt

/-- The byte `b` is recovered as `v`, and so is `b` with any one bit flipped: what L1 and L2 of R171 ask of `b = ENC(v)`. -/
def codesNibble (t : NibbleTable) (v : BitVec 4) (b : Byte) : Bool :=
  nibbleAt t b == v && (List.range 8).all fun i => nibbleAt t (b ^^^ (1#8 <<< i)) == v

/-- Laws L1 and L2 of R171 for some encoder `ENC`: every nibble has a byte that may be its encoding. (L3 is the table's type.) -/
def nibbleLawful (t : NibbleTable) : Bool :=
  (List.range 16).all fun v => (List.range 256).any fun b => codesNibble t (BitVec.ofNat 4 v) (BitVec.ofNat 8 b)

/-- `ENC_H(v)` of the candidate table (R172): Hamming(7,4), data in bits 3..0, parity in bits 6..4, bit 7 zero. -/
def hammingEnc (v : BitVec 4) : Byte :=
  let p4 := v.getLsbD 0 ^^ v.getLsbD 2 ^^ v.getLsbD 3
  let p5 := v.getLsbD 0 ^^ v.getLsbD 1 ^^ v.getLsbD 3
  let p6 := v.getLsbD 0 ^^ v.getLsbD 1 ^^ v.getLsbD 2
  0#1 ++ BitVec.ofBool p6 ++ BitVec.ofBool p5 ++ BitVec.ofBool p4 ++ v

/-- The rows 0_ to 7_ of the candidate table as R172 prints them; the rows 8_ to F_ repeat them, since bit 7 is ignored. -/
def hammingRows : List Nat :=
  [0x0, 0x0, 0x0, 0x3, 0x0, 0x5, 0xE, 0x7, 0x0, 0x9, 0xE, 0xB, 0xE, 0xD, 0xE, 0xE]
    ++ [0x0, 0x3, 0x3, 0x3, 0x4, 0xD, 0x6, 0x3, 0x8, 0xD, 0xA, 0x3, 0xD, 0xD, 0xE, 0xD]
    ++ [0x0, 0x5, 0x2, 0xB, 0x5, 0x5, 0x6, 0x5, 0x8, 0xB, 0xB, 0xB, 0xC, 0x5, 0xE, 0xB]
    ++ [0x8, 0x1, 0x6, 0x3, 0x6, 0x5, 0x6, 0x6, 0x8, 0x8, 0x8, 0xB, 0x8, 0xD, 0x6, 0xF]
    ++ [0x0, 0x9, 0x2, 0x7, 0x4, 0x7, 0x7, 0x7, 0x9, 0x9, 0xA, 0x9, 0xC, 0x9, 0xE, 0x7]
    ++ [0x4, 0x1, 0xA, 0x3, 0x4, 0x4, 0x4, 0x7, 0xA, 0x9, 0xA, 0xA, 0x4, 0xD, 0xA, 0xF]
    ++ [0x2, 0x1, 0x2, 0x2, 0xC, 0x5, 0x2, 0x7, 0xC, 0x9, 0x2, 0xB, 0xC, 0xC, 0xC, 0xF]
    ++ [0x1, 0x1, 0x2, 0x1, 0x4, 0x1, 0x6, 0xF, 0x8, 0x1, 0xA, 0xF, 0xC, 0xF, 0xF, 0xF]

/-- The candidate table of R172, used by TC0. Tests/Slice0.lean checks it against R172's formula. -/
def hammingTable : NibbleTable :=
  ⟨((hammingRows ++ hammingRows).map (BitVec.ofNat 4)).toArray, by decide +kernel⟩

/-- An arbitrary table that meets the laws of R171: the free table where it is lawful. Nothing says which table it is; the
candidate only shows that a lawful table exists (R171, D15; notes/assumptions/3.md). -/
def openLawfulTable : NibbleTable :=
  if nibbleLawful Config.openNibbleTable then Config.openNibbleTable else hammingTable

end Sys2Proof.Machine

/-- `NIBBLE_TABLE` (R10, R171). -/
def Sys2Proof.Config.nibbleTable (c : Sys2Proof.Config) : Sys2Proof.NibbleTable :=
  c.givenTable.getD Sys2Proof.Machine.openLawfulTable

namespace Sys2Proof.Machine

/-- What makes parameters a configuration of this block: the ranges of R10, the constraints of R164, the laws of R171. -/
def configValid (c : Config) : Bool :=
  decide (c.rsFcr ≤ 254) && gfPrimitive c.rsGen && nibbleLawful c.nibbleTable
    && decide (1 ≤ c.maxOperand) && decide (c.maxOperand ≤ 2 ^ 32 - 1)
    && decide (1 ≤ c.rxbufMax) && decide (c.rxbufMax ≤ 65535)

/-- A configuration of this block. One that breaks R164 or R171 is none, "and a model must refuse it rather than run it":
no machine state can hold one, and `State.powerOn` refuses it by name. -/
abbrev ValidConfig := { c : Config // configValid c = true }

/-- The decided values of R10, with `CRC_PREFIX` and `NIBBLE_TABLE`, which R10 leaves open, as given. -/
def decidedConfig (pre : Option (Vector Byte 16)) (tab : Option NibbleTable) : Config where
  rsFcr := 0
  rsGen := 0x02#8
  crcPoly := 0x1021#16
  crcReflect := false
  crcXorout := 0x0000#16
  givenPrefix := pre
  givenTable := tab
  sparePos := .trail
  descrambleUncorrected := false
  maxOperand := 1048576
  rxbufMax := 4096

/-- `RS_GEN = 0x02` is primitive (R141, R164). -/
theorem gfPrimitive_two : gfPrimitive 0x02#8 = true := by decide +kernel

/-- The candidate table meets the laws (R172). -/
theorem nibbleLawful_hamming : nibbleLawful hammingTable = true := by decide +kernel

theorem nibbleLawful_open : nibbleLawful openLawfulTable = true := by
  unfold openLawfulTable
  split
  · assumption
  · exact nibbleLawful_hamming

theorem configValid_decided (pre : Option (Vector Byte 16)) (tab : Option NibbleTable)
    (h : nibbleLawful (decidedConfig pre tab).nibbleTable = true) : configValid (decidedConfig pre tab) = true := by
  unfold configValid
  rw [h]
  simp [decidedConfig, gfPrimitive_two]

/-- The reference configuration of the block: R10's decided values, the two open parameters left open. -/
def referenceConfig : ValidConfig := ⟨decidedConfig none none, configValid_decided _ _ nibbleLawful_open⟩

/-- Test configuration TC0 (R11): prefix 00 01 … 0F and the candidate table. Test values only. -/
def tc0 : ValidConfig :=
  ⟨decidedConfig (some #v[0x00#8, 0x01#8, 0x02#8, 0x03#8, 0x04#8, 0x05#8, 0x06#8, 0x07#8, 0x08#8, 0x09#8, 0x0A#8, 0x0B#8,
    0x0C#8, 0x0D#8, 0x0E#8, 0x0F#8]) (some hammingTable), configValid_decided _ _ nibbleLawful_hamming⟩

end Sys2Proof.Machine
end

