-- ==== Sys2Proof/Machine/State.lean ====
section
/-! DEFINITION. The state of the block (10_state.md rules R21 to R41), its value after reset, and the reasons a step can stop.
The persistent state of R21 is `rx`, `lastSts` and `cnt`; the two ports and the configuration stand beside it. -/

namespace Sys2Proof.Machine

/-- `RX.STATE`, the deframer's mode (R24). -/
inductive RxState where
  /-- HUNT (0): outside any frame, waiting for a sentinel. -/
  | hunt
  /-- ADDR (1): a sentinel has been seen, the next non-sentinel byte is the address. -/
  | addr
  /-- DATA (2): inside a frame, collecting payload bytes. -/
  | data
  /-- ESC (3): inside a frame, just after an escape byte. -/
  | esc
deriving DecidableEq, Repr

/-- The deframer: `RX.STATE`, `RX.ADDR`, `RX.BUF` (R24 to R26). -/
structure Deframer where
  state : RxState
  addr : Byte
  buf : Bytes
deriving DecidableEq, Repr

/-- The six event counters, registers 0x10 to 0x15 (R33). -/
structure Counters where
  clean : BitVec 32
  degraded : BitVec 32
  dropped : BitVec 32
  rxFrames : BitVec 32
  rxErrors : BitVec 32
  cmdErrors : BitVec 32
deriving DecidableEq, Repr

/-- The status of a response (60_exceptions.md rule R226). The codes are `Status.code`. -/
inductive Status where
  | ok
  | okFrame
  | illegalOpcode
  | badLength
  | badOperand
  | incompleteEscape
  | invalidEscape
  | rxOverflow
  | uncorrectableBlock
  | frameTooShort
  | frameTooLong
deriving DecidableEq, Repr

/-- The state of the machine. -/
structure State where
  /-- `RX.STATE`, `RX.ADDR`, `RX.BUF` (R24 to R26). -/
  rx : Deframer
  /-- `LAST_STS`: the status byte of the most recent command that was not REG.RD (R34). -/
  lastSts : Byte
  /-- The event counters (R33). -/
  cnt : Counters
  /-- The bytes the host has sent on the command port since power-on, in order (R22, R66). No command writes it (R59). -/
  cmdStream : Bytes
  /-- The position of the command parser in that stream: at a packet boundary between commands (R22, R67). -/
  cmdPos : Nat
  /-- The bytes the block has emitted on the response port since power-on, in order (R68). -/
  rspStream : Bytes
  /-- The configuration the block was built with (R10). No command and no reset changes it (R21, R254). -/
  cfg : ValidConfig
deriving DecidableEq, Repr

/-- The reasons for a fault: none. No command and no input stops the block: every error is a status in a response (R16, R241),
every command terminates (R267), and a missing byte is waited for (R259). -/
inductive Fault where
deriving DecidableEq, Repr

/-- The reasons for a refusal. -/
inductive Refusal where
  /-- Raised by an arm of `exec` whose instruction has no meaning yet; no arm does. Safe: it claims nothing. -/
  | notModelled (mnemonic : String)
  /-- Raised by `State.powerOn` for parameters that are not a configuration of this block (R164, I6, I9). Safe: the spec says
  that a model must refuse them rather than run them. No step raises it: a state holds a valid configuration. -/
  | invalidConfiguration
deriving DecidableEq, Repr

/-- The deframer after reset (R41). -/
def Deframer.atReset : Deframer := { state := .hunt, addr := 0x00#8, buf := [] }

/-- All six counters after reset (R41). -/
def Counters.zero : Counters :=
  { clean := 0#32, degraded := 0#32, dropped := 0#32, rxFrames := 0#32, rxErrors := 0#32, cmdErrors := 0#32 }

/-- The block right after a power-on with configuration `c` (R41, R251, R252): the persistent state at its reset values, no byte
received and none emitted. -/
def State.resetWith (c : ValidConfig) : State where
  rx := Deframer.atReset
  lastSts := 0x00#8
  cnt := Counters.zero
  cmdStream := []
  cmdPos := 0
  rspStream := []
  cfg := c

/-- The machine right after reset, in the reference configuration (R10, R41). -/
def State.reset : State := State.resetWith referenceConfig

end Sys2Proof.Machine
end

