-- ==== Sys2Proof/Machine/Ops.lean ====
section
/-! DEFINITION. The operations every command shares: status codes, the response packet, how a command ends normally and how it
ends in an error, the counters, and what the host and the power supply do to the block. -/

namespace Sys2Proof.Machine

/-- The two bits of `RX.STATE` (R21, R24). -/
def RxState.code : RxState → BitVec 2
  | .hunt => 0#2
  | .addr => 1#2
  | .data => 2#2
  | .esc => 3#2

/-- The `STS` byte (R226). -/
def Status.code : Status → Byte
  | .ok => 0x00#8
  | .okFrame => 0x01#8
  | .illegalOpcode => 0x80#8
  | .badLength => 0x81#8
  | .badOperand => 0x82#8
  | .incompleteEscape => 0x90#8
  | .invalidEscape => 0x91#8
  | .rxOverflow => 0x92#8
  | .uncorrectableBlock => 0xA0#8
  | .frameTooShort => 0xB0#8
  | .frameTooLong => 0xB1#8

/-- Bit 7 of `STS` marks an error (R227). -/
def Status.isError (st : Status) : Bool := st.code.getLsbD 7

/-- The statuses that R33 counts in `CNT_CMD_ERRORS` (R226: class "command error"). -/
def Status.isCommandError : Status → Bool
  | .illegalOpcode => true
  | .badLength => true
  | .badOperand => true
  | .ok => false
  | .okFrame => false
  | .incompleteEscape => false
  | .invalidEscape => false
  | .rxOverflow => false
  | .uncorrectableBlock => false
  | .frameTooShort => false
  | .frameTooLong => false

/-- The statuses that R33 counts in `CNT_RX_ERRORS` when FC.RX answers with them. -/
def Status.isRxError : Status → Bool
  | .incompleteEscape => true
  | .invalidEscape => true
  | .rxOverflow => true
  | .ok => false
  | .okFrame => false
  | .illegalOpcode => false
  | .badLength => false
  | .badOperand => false
  | .uncorrectableBlock => false
  | .frameTooShort => false
  | .frameTooLong => false

/-- The `RLEN` field for a result of `n` bytes (R68). Where `n` does not fit 32 bits the spec states no value (R63 excludes the
case only for `MAX_OPERAND ≤ 2^31 − 1`): a free value. DESIGN CHOICE, notes/assumptions/6.md. -/
def rlen (n : Nat) : BitVec 32 :=
  if n < 2 ^ 32 then BitVec.ofNat 32 n else Config.openRlen n

/-- The response packet `STS ++ u32be(RLEN) ++ RESULT` (R68). -/
def responsePacket (st : Status) (result : Bytes) : Bytes :=
  st.code :: u32be (rlen result.length) ++ result

/-- Emit one response packet on the response port (R68). -/
def State.emit (s : State) (st : Status) (result : Bytes) : State :=
  { s with rspStream := s.rspStream ++ responsePacket st result }

/-- `LAST_STS <- st` (R34). -/
def State.setLast (s : State) (st : Status) : State := { s with lastSts := st.code }

/-- `respond(st)`: the command ends and its response carries the result emitted so far (R16); `LAST_STS` takes the status (R34). -/
def State.respond (s : State) (st : Status) (result : Bytes) : State := (s.setLast st).emit st result

/-- An increment of `CNT_CMD_ERRORS`, modulo 2^32 (R33, R43). -/
def Counters.countCmdError (c : Counters) : Counters := { c with cmdErrors := c.cmdErrors + 1#32 }

/-- `CNT_RX_FRAMES` counts an OK_FRAME response of FC.RX, `CNT_RX_ERRORS` its deframer errors (R33, R103). -/
def Counters.countRx (c : Counters) (st : Status) : Counters :=
  { c with
    rxFrames := if st = .okFrame then c.rxFrames + 1#32 else c.rxFrames
    rxErrors := if st.isRxError then c.rxErrors + 1#32 else c.rxErrors }

/-- The frame counters grow by a command's totals, modulo 2^32 (R33, R43, R53). -/
def Counters.addFrames (c : Counters) (nc nd nx : Nat) : Counters :=
  { c with
    clean := c.clean + BitVec.ofNat 32 nc
    degraded := c.degraded + BitVec.ofNat 32 nd
    dropped := c.dropped + BitVec.ofNat 32 nx }

/-- TAKING AN ERROR, for every command but REG.RD: `raise st` ends the command at once with an empty result (R16). `LAST_STS`
takes the code (R230 a); ILLEGAL_OPCODE, BAD_LENGTH and BAD_OPERAND count in `CNT_CMD_ERRORS` (R230 b). The deframer's and the
assembler's own changes (R230 c, d) are made by FC.RX and PA.FRAME before they end. The block has no trap entry (R241) and
therefore no return from one (R242): after any response it reads the next packet. -/
def State.raise (s : State) (st : Status) : State :=
  ({ s with cnt := if st.isCommandError then s.cnt.countCmdError else s.cnt }).respond st []

/-- How REG.RD ends, well or badly: it emits its response and writes no state at all (R34, R217, R230). -/
def State.answerQuietly (s : State) (st : Status) (result : Bytes) : State := s.emit st result

/-- The command parser moves past a packet of `n` bytes (R22). -/
def State.advance (s : State) (n : Nat) : State := { s with cmdPos := s.cmdPos + n }

/-- Every element of R21 takes its reset value (R41, R219, R251). The ports and the configuration stay (R252, R254). -/
def State.resetPersistent (s : State) : State :=
  { s with rx := Deframer.atReset, lastSts := 0x00#8, cnt := Counters.zero }

/-- A command whose operand was read by its format: an operand error is raised (R229, R231), and a good operand goes on. -/
def withOperand {α : Type} (s : State) (p : Except Status α) (k : α → State) : Host.Outcome State Fault Refusal :=
  match p with
  | .error st => .next (s.raise st)
  | .ok a => .next (k a)

/-- A packet with an illegal opcode, read and discarded, is answered with ILLEGAL_OPCODE (R71, R228). -/
def illegalOpcodeStep (s : State) : State := s.raise .illegalOpcode

/-- The host sends bytes on the command port (R66, D45). -/
def State.receive (s : State) (bs : Bytes) : State := { s with cmdStream := s.cmdStream ++ bs }

/-- Power-on with the parameters the block was built with (R251, R252). Parameters that are not a configuration of this block are
refused rather than run (R164, I6, I9). -/
def State.powerOn (c : Config) : Host.Outcome State Fault Refusal :=
  if h : configValid c = true then .next (State.resetWith ⟨c, h⟩) else .refused .invalidConfiguration

end Sys2Proof.Machine
end

