-- ==== Sys2Proof/Machine/Operands.lean ====
section
/-! DEFINITION. The operand formats O0, OB, OA, O1, OS, OH, OPB, O4 and OR (30_encoding.md rules R72 to R81): how a command reads
its operand bytes `OP`, and which error it raises. The length is checked before anything else about the operand (R81, R239). -/

namespace Sys2Proof.Machine

/-- The length check of R81 and R229: BAD_LENGTH when `LEN > MAX_OPERAND`, whatever the format, or outside `lo..hi`. -/
def checkLen (c : Config) (lo hi : Nat) (op : Bytes) : Except Status Unit :=
  if c.maxOperand < op.length then .error .badLength
  else if op.length < lo ∨ hi < op.length then .error .badLength
  else .ok ()

/-- Format O0: no operand, `LEN = 0` (R72). -/
def operandO0 (c : Config) (op : Bytes) : Except Status Unit := checkLen c 0 0 op

/-- Format OB: one byte string of any length up to `MAX_OPERAND` (R73). -/
def operandOB (c : Config) (op : Bytes) : Except Status Bytes :=
  (checkLen c 0 c.maxOperand op).map fun _ => op

/-- Format OA: an address byte, then a payload; `LEN ≥ 1` (R74). -/
def operandOA (c : Config) (op : Bytes) : Except Status (Byte × Bytes) :=
  (checkLen c 1 c.maxOperand op).map fun _ => (op.headD 0#8, op.tail)

/-- Format O1: one data byte (R75). -/
def operandO1 (c : Config) (op : Bytes) : Except Status Byte :=
  (checkLen c 1 1 op).map fun _ => op.headD 0#8

/-- Format OS: a 9-bit scrambler state in two big-endian bytes, then a block. A state above 0x1FF is BAD_OPERAND, never
truncated (R76). -/
def operandOS (c : Config) (op : Bytes) : Except Status (BitVec 9 × Bytes) :=
  match checkLen c 2 c.maxOperand op with
  | .error st => .error st
  | .ok _ =>
    let s0 := be16 (op.getD 0 0#8) (op.getD 1 0#8)
    if 0x1FF#16 < s0 then .error .badOperand else .ok (s0.setWidth 9, op.drop 2)

/-- Format OH: one header codeword of exactly 15 bytes (R77). -/
def operandOH (c : Config) (op : Bytes) : Except Status Bytes :=
  (checkLen c (hdrLen + hparLen) (hdrLen + hparLen) op).map fun _ => op

/-- Format OPB: one payload codeword of 16 to 255 bytes (R78). -/
def operandOPB (c : Config) (op : Bytes) : Except Status Bytes :=
  (checkLen c pparLen rsNmax op).map fun _ => op

/-- Format O4: the four encoded-checksum bytes (R79). -/
def operandO4 (c : Config) (op : Bytes) : Except Status Bytes :=
  (checkLen c ecsLen ecsLen op).map fun _ => op

/-- Format OR: a register index (R80). Whether the index is assigned is `readRegister`'s question (R35). -/
def operandOR (c : Config) (op : Bytes) : Except Status Byte :=
  (checkLen c 1 1 op).map fun _ => op.headD 0#8

end Sys2Proof.Machine
end

