-- ==== Sys2Proof/Machine/BlockFec.lean ====
section
/-! DEFINITION. BlockFEC (43_blockfec.md): syndromes, codewords, the bounded-distance decoder by the reference algorithm of R152,
CHECK, and the commands FEC.HCHK, FEC.HDEC, FEC.PCHK, FEC.PDEC. Every function takes the configuration for `RS_FCR` and `RS_GEN`;
the redundancy `t` is 2 for FEC_H and 16 for FEC_P (R147). -/

namespace Sys2Proof.Machine

/-- `α^e`, with `α = RS_GEN` and `e` modulo 255 (R17, R143). -/
def alphaPow (c : Config) (e : Nat) : Byte := gfPow c.rsGen (e % 255)

/-- `SYNDROME(r, t, j)`: the block's polynomial at `α^(RS_FCR + j)`, by Horner's rule, byte 0 the highest power (R144, R148). -/
def syndrome (c : Config) (r : Bytes) (j : Nat) : Byte :=
  hornerHigh (alphaPow c (c.rsFcr + j)) r

/-- `S_0 … S_{t−1}` (R148). -/
def syndromes (c : Config) (r : Bytes) (t : Nat) : Bytes := (List.range t).map (syndrome c r)

/-- A block is a codeword of the `t`-code iff all its syndromes are 0 (R146). -/
def isCodeword (c : Config) (r : Bytes) (t : Nat) : Bool := (syndromes c r t).all (· == 0#8)

/-- `dist(a, b)` of blocks of equal length: the positions where they differ, parity included (R149). -/
def blockDist (a b : Bytes) : Nat := (List.zipWith (fun x y => if x = y then 0 else 1) a b).sum

/-- The radius `ρ = ⌊t/2⌋` (R147). -/
def radius (t : Nat) : Nat := t / 2

/-- The locator `X_i = α^(n−1−i)` of byte position `i` in a block of `n` bytes (R144). -/
def locator (c : Config) (n i : Nat) : Byte := alphaPow c (n - 1 - i)

/-- The variables of the Berlekamp-Massey loop (R152). -/
structure BmState where
  lam : Bytes
  prev : Bytes
  len : Nat
  gap : Nat
  disc : Byte
deriving DecidableEq, Repr

/-- The variables before the loop: `Λ = B = 1`, `L = 0`, `m = 1`, `bd = 1` (R152). -/
def bmStart : BmState := { lam := [1#8], prev := [1#8], len := 0, gap := 1, disc := 1#8 }

/-- The discrepancy `d = S[k] ⊕ (⊕_{i=1..L} Λ[i] ⊗ S[k−i])` (R152). -/
def bmDiscrepancy (syn : Bytes) (k : Nat) (st : BmState) : Byte :=
  (List.range st.len).foldl
    (fun acc i => acc ^^^ gfMul (st.lam.getD (i + 1) 0#8) (syn.getD (k - (i + 1)) 0#8)) (syn.getD k 0#8)

/-- One turn of the Berlekamp-Massey loop (R152). -/
def bmStep (syn : Bytes) (st : BmState) (k : Nat) : BmState :=
  let d := bmDiscrepancy syn k st
  if d = 0#8 then { st with gap := st.gap + 1 }
  else
    let lam' := polyAdd st.lam (polyScale (gfMul d (gfInv st.disc)) (polyShift st.gap st.prev))
    if 2 * st.len ≤ k then { lam := lam', prev := st.lam, len := k + 1 - st.len, gap := 1, disc := d }
    else { st with lam := lam', gap := st.gap + 1 }

/-- Berlekamp-Massey over `t` syndromes (R152). -/
def bmRun (syn : Bytes) (t : Nat) : BmState := (List.range t).foldl (bmStep syn) bmStart

/-- The Chien search: the positions of the block at whose inverse locator `Λ` vanishes (R152). -/
def chien (c : Config) (lam : Bytes) (n : Nat) : List Nat :=
  (List.range n).filter fun i => polyEval lam (gfInv (locator c n i)) == 0#8

/-- `X_i^(1 − RS_FCR)`, the exponent modulo 255 (R143, R152): `1 − RS_FCR` is `256 − RS_FCR` modulo 255. -/
def forneyFactor (c : Config) (n i : Nat) : Byte := alphaPow c ((n - 1 - i) * (256 - c.rsFcr))

/-- The error value at position `i` by Forney's formula; `none` where the denominator is 0 (R152). -/
def forneyValue (c : Config) (lam omega : Bytes) (n i : Nat) : Option Byte :=
  let xinv := gfInv (locator c n i)
  let den := polyEval (polyDeriv lam) xinv
  if den = 0#8 then none
  else some (gfMul (gfMul (forneyFactor c n i) (polyEval omega xinv)) (gfInv den))

/-- The block with the error values taken off at the given positions (R152). -/
def forneyCorrect (c : Config) (lam omega : Bytes) (n : Nat) : List Nat → Bytes → Option Bytes
  | [], r => some r
  | i :: is, r =>
    match forneyValue c lam omega n i with
    | none => none
    | some v => forneyCorrect c lam omega n is (r.set i (r.getD i 0#8 ^^^ v))

/-- The last two tests of the reference algorithm: the corrected block is a codeword, within the radius (R152). -/
def acceptCorrection (c : Config) (r : Bytes) (t : Nat) (r' : Bytes) : Option (Bytes × Nat) :=
  if isCodeword c r' t ∧ blockDist r r' ≤ radius t then some (r', blockDist r r') else none

/-- The part of the reference algorithm after the syndrome test (R152). -/
def correctBlock (c : Config) (r : Bytes) (t : Nat) : Option (Bytes × Nat) :=
  let n := r.length
  let syn := syndromes c r t
  let bm := bmRun syn t
  if polyDeg bm.lam ≠ bm.len ∨ radius t < bm.len then none
  else
    let errs := chien c bm.lam n
    if errs.length ≠ bm.len then none
    else
      let omega := (polyMul syn bm.lam).take t
      match forneyCorrect c bm.lam omega n errs r with
      | none => none
      | some r' => acceptCorrection c r t r'

/-- `BD_DECODE(r, t)` (R151) by the reference algorithm of R152: the codeword within the radius and its distance, or `none` for
FAIL. DEDUCED that the two agree (the spec says so), notes/assumptions/8.md. -/
def bdDecode (c : Config) (r : Bytes) (t : Nat) : Option (Bytes × Nat) :=
  if isCodeword c r t then some (r, 0) else correctBlock c r t

/-- `CHECK(r, t)`: the block can be decoded (R153). -/
def fecCheck (c : Config) (r : Bytes) (t : Nat) : Bool := (bdDecode c r t).isSome

/-- The result byte of a check command (R157, R159). -/
def checkByte (good : Bool) : Bytes := [if good then 0x01#8 else 0x00#8]

/-- How a decode command ends (R156, R158, R160): the systematic bytes and the count, or UNCORRECTABLE_BLOCK. -/
def State.finishDecode (s : State) (r : Bytes) (t : Nat) : State :=
  match bdDecode s.cfg.val r t with
  | none => s.raise .uncorrectableBlock
  | some (c, d) => s.respond .ok (c.take (r.length - t) ++ [BitVec.ofNat 8 d])

/-- FEC.HCHK (R157). -/
def execFecHchk (op : Bytes) (s : State) : Host.Outcome State Fault Refusal :=
  withOperand s (operandOH s.cfg.val op) fun r => s.respond .ok (checkByte (fecCheck s.cfg.val r hparLen))

/-- FEC.HDEC (R158). -/
def execFecHdec (op : Bytes) (s : State) : Host.Outcome State Fault Refusal :=
  withOperand s (operandOH s.cfg.val op) fun r => s.finishDecode r hparLen

/-- FEC.PCHK (R159). -/
def execFecPchk (op : Bytes) (s : State) : Host.Outcome State Fault Refusal :=
  withOperand s (operandOPB s.cfg.val op) fun r => s.respond .ok (checkByte (fecCheck s.cfg.val r pparLen))

/-- FEC.PDEC (R160). -/
def execFecPdec (op : Bytes) (s : State) : Host.Outcome State Fault Refusal :=
  withOperand s (operandOPB s.cfg.val op) fun r => s.finishDecode r pparLen

end Sys2Proof.Machine
end

