-- ==== Sys2Proof/Machine/Checksum.lean ====
section
/-! DEFINITION. ChecksumRecovery and the CRC-16 (44_checksum.md), with CR.REC, CRC.CALC and CRC.REF. -/

namespace Sys2Proof.Machine

/-- `RECOVER(e)`: the four recovered nibbles, high to low (R174). -/
def recover (c : Config) (e : Bytes) : BitVec 16 :=
  nibbleAt c.nibbleTable (e.getD 0 0#8) ++ nibbleAt c.nibbleTable (e.getD 1 0#8)
    ++ nibbleAt c.nibbleTable (e.getD 2 0#8) ++ nibbleAt c.nibbleTable (e.getD 3 0#8)

/-- One bit of the CRC, most significant bit first (R176). -/
def crcBit (poly w : BitVec 16) : BitVec 16 :=
  if w.getLsbD 15 then (w <<< 1) ^^^ poly else w <<< 1

/-- One bit of the reflected CRC, least significant bit first (R176); `rp` is the reversed polynomial. -/
def crcBitReflected (rp w : BitVec 16) : BitVec 16 :=
  if w.getLsbD 0 then (w >>> 1) ^^^ rp else w >>> 1

/-- A bit step repeated 8 times (R176). -/
def eightTimes (f : BitVec 16 → BitVec 16) (w : BitVec 16) : BitVec 16 :=
  f (f (f (f (f (f (f (f w)))))))

/-- The CRC register after one more byte, not reflected (R176). -/
def crcByte (poly w : BitVec 16) (b : Byte) : BitVec 16 :=
  eightTimes (crcBit poly) (w ^^^ (b.setWidth 16 <<< 8))

/-- The CRC register after one more byte, reflected (R176). -/
def crcByteReflected (rp w : BitVec 16) (b : Byte) : BitVec 16 :=
  eightTimes (crcBitReflected rp) (w ^^^ b.setWidth 16)

/-- `CRC16(d)` (R176). -/
def crc16 (c : Config) (d : Bytes) : BitVec 16 :=
  (if c.crcReflect then d.foldl (crcByteReflected c.crcPoly.reverse) crcInit
   else d.foldl (crcByte c.crcPoly) crcInit) ^^^ c.crcXorout

/-- `REF_CRC(payload) = CRC16(CRC_PREFIX ++ payload)` (R183). -/
def refCrc (c : Config) (payload : Bytes) : BitVec 16 := crc16 c (c.crcPrefix.toList ++ payload)

/-- CR.REC (R175). -/
def execCrRec (op : Bytes) (s : State) : Host.Outcome State Fault Refusal :=
  withOperand s (operandO4 s.cfg.val op) fun e => s.respond .ok (u16be (recover s.cfg.val e))

/-- CRC.CALC (R177). -/
def execCrcCalc (op : Bytes) (s : State) : Host.Outcome State Fault Refusal :=
  withOperand s (operandOB s.cfg.val op) fun d => s.respond .ok (u16be (crc16 s.cfg.val d))

/-- CRC.REF (R178). -/
def execCrcRef (op : Bytes) (s : State) : Host.Outcome State Fault Refusal :=
  withOperand s (operandOB s.cfg.val op) fun d => s.respond .ok (u16be (refCrc s.cfg.val d))

end Sys2Proof.Machine
end

