-- ==== Sys2Proof/Machine/Delimiter.lean ====
section
/-! DEFINITION. DelimiterLocator (41_delimiter.md): the marker search, its boundary list, the frame extents, and DL.FIND. -/

namespace Sys2Proof.Machine

/-- Every offset at or after `o` where the marker begins, where `o` is the offset of the first byte given. The search goes on one
byte after each match START (R118, R119), so overlapping matches would be found too. -/
def markersFrom (o : Nat) : Bytes → List Nat
  | [] => []
  | b :: bs =>
    if marker.isPrefixOf (b :: bs) then o :: markersFrom (o + 1) bs else markersFrom (o + 1) bs

/-- `FIND(buf, start)`: the least match at or after `start` that lies wholly inside `buf` (R117); `none` stands for −1. -/
def findMarker (buf : Bytes) (start : Nat) : Option Nat := (markersFrom start (buf.drop start)).head?

/-- The entries of `LOCATE(buf)` before the sentinel (R118, R120). -/
def markerOffsets (buf : Bytes) : List Nat := markersFrom 0 buf

/-- `LOCATE(buf)`: the match offsets and the trailing −1 (R118). -/
def locate (buf : Bytes) : List Int := (markerOffsets buf).map Int.ofNat ++ [-1]

/-- The extents `[o_j, e_j)` of the frames that start at the given offsets; the last one ends at the end of the buffer (R121). -/
def frameExtents (total : Nat) : List Nat → List (Nat × Nat)
  | [] => []
  | [o] => [(o, total)]
  | o :: o' :: rest => (o, o') :: frameExtents total (o' :: rest)

/-- DL.FIND (R118): each entry of LOCATE modulo 2^32, so that −1 is 0xFFFFFFFF (R90). -/
def execDlFind (op : Bytes) (s : State) : Host.Outcome State Fault Refusal :=
  withOperand s (operandOB s.cfg.val op) fun buf =>
    s.respond .ok ((locate buf).flatMap fun v => u32be (BitVec.ofInt 32 v))

end Sys2Proof.Machine
end

