-- ==== Sys2Proof/Machine/Descrambler.lean ====
section
/-! DEFINITION. The Descrambler (42_descrambler.md): the bit stream of a block, the recurrence of R127, DS.DESC and DS.DESCS. -/

namespace Sys2Proof.Machine

/-- The bits of a byte, most significant first (R127). -/
def byteBits (b : Byte) : List Bool :=
  [b.getLsbD 7, b.getLsbD 6, b.getLsbD 5, b.getLsbD 4, b.getLsbD 3, b.getLsbD 2, b.getLsbD 1, b.getLsbD 0]

/-- The bit stream of a block: bit `k` is bit `7 − (k mod 8)` of byte `⌊k/8⌋` (R127). -/
def unpackBits (blk : Bytes) : List Bool := blk.flatMap byteBits

/-- The byte of eight bits, most significant first (R127). -/
def bitsByte (b7 b6 b5 b4 b3 b2 b1 b0 : Bool) : Byte :=
  BitVec.ofBool b7 ++ BitVec.ofBool b6 ++ BitVec.ofBool b5 ++ BitVec.ofBool b4
    ++ BitVec.ofBool b3 ++ BitVec.ofBool b2 ++ BitVec.ofBool b1 ++ BitVec.ofBool b0

/-- A bit stream packed into bytes the way `unpackBits` takes them apart (R127). The descrambler's streams hold whole bytes. -/
def packBits : List Bool → Bytes
  | b7 :: b6 :: b5 :: b4 :: b3 :: b2 :: b1 :: b0 :: rest => bitsByte b7 b6 b5 b4 b3 b2 b1 b0 :: packBits rest
  | _ => []

/-- The next scrambler state after the received (or sent) bit `b`: `((s >> 1) | (b << 8)) XOR (b << 3)` (R127). -/
def scramblerNext (s : BitVec 9) (b : Bool) : BitVec 9 :=
  let w : BitVec 9 := (BitVec.ofBool b).setWidth 9
  ((s >>> 1) ||| (w <<< 8)) ^^^ (w <<< 3)

/-- The output bits for a stream of input bits: `(b XOR state) & 1`, the state fed with the input bit (R127). -/
def descrambleBits : BitVec 9 → List Bool → List Bool
  | _, [] => []
  | s, b :: bs => (b ^^ s.getLsbD 0) :: descrambleBits (scramblerNext s b) bs

/-- The state after a stream of input bits (R127, R136). -/
def scramblerFinal (s : BitVec 9) (bs : List Bool) : BitVec 9 := bs.foldl scramblerNext s

/-- `DESCRAMBLE(blk, s0)` (R127). -/
def descramble (blk : Bytes) (s0 : BitVec 9) : Bytes := packBits (descrambleBits s0 (unpackBits blk))

/-- DS.DESC (R128): the whole operand is one block, from 0x1F0. -/
def execDsDesc (op : Bytes) (s : State) : Host.Outcome State Fault Refusal :=
  withOperand s (operandOB s.cfg.val op) fun blk => s.respond .ok (descramble blk dsInit)

/-- DS.DESCS (R129). -/
def execDsDescs (op : Bytes) (s : State) : Host.Outcome State Fault Refusal :=
  withOperand s (operandOS s.cfg.val op) fun sb => s.respond .ok (descramble sb.2 sb.1)

end Sys2Proof.Machine
end

