-- ==== Sys2Proof/Machine/Flags.lean ====
section
/-! DEFINITION. The flag-like outputs (10_state.md rule R36): the record's `FLAGS` byte (45_assembler.md rules R195, R198) and the
assembled registers STATUS, PARAM and CRCCFG (rules R29, R31, R32). The core has no flag register that commands write (R36). -/

namespace Sys2Proof.Machine

/-- The record's `FLAGS` byte: bit 0 BAD_HEADER, bit 1 BAD_PAYLOAD, bit 2 BAD_CRC, bit 3 CHECKSUM_VERIFIED, bits 7..4 zero (R195).
CHECKSUM_VERIFIED is the complement of BAD_CRC (R192). -/
def recordFlags (badHeader badPayload badCrc : Bool) : Byte :=
  0#4 ++ BitVec.ofBool (!badCrc) ++ BitVec.ofBool badCrc ++ BitVec.ofBool badPayload ++ BitVec.ofBool badHeader

/-- A record is clean iff `FLAGS[2:0] = 0` (R198). -/
def flagsClean (flags : Byte) : Bool := flags &&& 0x07#8 == 0#8

/-- Register STATUS (R29, R217): `RX_LEN` in bits 31..16, `LAST_STS` in 15..8, bits 7..2 zero, `RX_STATE` in 1..0. DEDUCED: a
length is reduced to its field, notes/assumptions/9.md. -/
def statusWord (s : State) : BitVec 32 :=
  BitVec.ofNat 16 s.rx.buf.length ++ s.lastSts ++ 0#6 ++ s.rx.state.code

/-- `SPARE_POS_BIT`: 0 for TRAIL, 1 for LEAD (R31, R217). -/
def sparePosBit : SparePos → Bool
  | .trail => false
  | .lead => true

/-- Register PARAM (R31, R217). -/
def paramWord (c : Config) : BitVec 32 :=
  0#13 ++ BitVec.ofBool c.crcReflect ++ BitVec.ofBool c.descrambleUncorrected ++ BitVec.ofBool (sparePosBit c.sparePos)
    ++ c.rsGen ++ BitVec.ofNat 8 c.rsFcr

/-- Register CRCCFG (R32, R217). -/
def crccfgWord (c : Config) : BitVec 32 := c.crcPoly ++ c.crcXorout

end Sys2Proof.Machine
end

