-- ==== Sys2Proof/Machine/Assembler.lean ====
section
/-! DEFINITION. PacketAssembler (45_assembler.md): the field layout of a frame body, DECODE_FRAME, the record and its bytes, the
capture result, PA.FRAME and PA.CAPT. -/

namespace Sys2Proof.Machine

/-- The fields of a frame body (R188): header, header parity, payload, payload parity, encoded checksum. -/
structure BodyFields where
  hr : Bytes
  hp : Bytes
  pr : Bytes
  pp : Bytes
  ec : Bytes
deriving DecidableEq, Repr

/-- `b` of R188: where the spare byte leads, every field stands one byte later. -/
def leadShift : SparePos → Nat
  | .trail => 0
  | .lead => 1

/-- The slices of R188 for a body with `p` payload bytes. The spare byte is never read (I11). -/
def bodyFields (pos : SparePos) (p : Nat) (body : Bytes) : BodyFields :=
  let b := leadShift pos
  { hr := slice b (b + 13) body
    hp := slice (b + 13) (b + 15) body
    pr := slice (b + 15) (b + 15 + p) body
    pp := slice (b + 15 + p) (b + 31 + p) body
    ec := slice (b + 31 + p) (b + 35 + p) body }

/-- What FEC and descrambling give for one region (R190, R191): the bytes the record carries, and the correction count, `none`
for "uncorrectable". -/
structure Region where
  bytes : Bytes
  count : Option Nat
deriving DecidableEq, Repr

/-- The header step (R190) and the payload step (R191): decode `data ++ parity`; on success descramble the corrected data from
0x1F0; on failure the raw data, descrambled only if `DESCRAMBLE_UNCORRECTED`. -/
def decodeRegion (c : Config) (data parity : Bytes) (t : Nat) : Region :=
  match bdDecode c (data ++ parity) t with
  | some (w, d) => { bytes := descramble (w.take data.length) dsInit, count := some d }
  | none => { bytes := if c.descrambleUncorrected then descramble data dsInit else data, count := none }

/-- The decoded packet record (R194), with `P` and the two checksums of R195. -/
structure Record where
  offset : Nat
  header : Region
  headerParity : Bytes
  payload : Region
  payloadParity : Bytes
  encodedChecksum : Bytes
  rxCrc : BitVec 16
  refCrc : BitVec 16
  plen : Nat
deriving DecidableEq, Repr

/-- A correction count as its byte; "uncorrectable" is 0xFF (R90, R195). -/
def countByte : Option Nat → Byte
  | some d => BitVec.ofNat 8 d
  | none => 0xFF#8

/-- The record's `FLAGS` byte (R190 to R193, R195). -/
def Record.flags (r : Record) : Byte :=
  recordFlags r.header.count.isNone r.payload.count.isNone (r.rxCrc != r.refCrc)

/-- The record's bytes, `47 + P` of them (R195). -/
def Record.bytes (r : Record) : Bytes :=
  [r.flags, countByte r.header.count, countByte r.payload.count, BitVec.ofNat 8 r.plen]
    ++ u32be (BitVec.ofNat 32 r.offset) ++ r.header.bytes ++ r.headerParity ++ r.payloadParity ++ r.encodedChecksum
    ++ u16be r.rxCrc ++ u16be r.refCrc ++ r.payload.bytes

/-- One frame body is dropped for a reason or becomes a record (R196). -/
inductive FrameResult where
  | drop (reason : Status)
  | record (r : Record)
deriving DecidableEq, Repr

/-- The record of a body of legal length (R190 to R195). -/
def decodeBody (c : Config) (body : Bytes) (off : Nat) : Record :=
  let p := body.length - overhead
  let f := bodyFields c.sparePos p body
  let payload := decodeRegion c f.pr f.pp pparLen
  { offset := off
    header := decodeRegion c f.hr f.hp hparLen
    headerParity := f.hp
    payload := payload
    payloadParity := f.pp
    encodedChecksum := f.ec
    rxCrc := recover c f.ec
    refCrc := refCrc c payload.bytes
    plen := p }

/-- `DECODE_FRAME(body, off)` (R189, R196). -/
def decodeFrame (c : Config) (body : Bytes) (off : Nat) : FrameResult :=
  if body.length < overhead then .drop .frameTooShort
  else if pMax < body.length - overhead then .drop .frameTooLong
  else .record (decodeBody c body off)

/-- The result is a clean record (R198). -/
def FrameResult.isClean : FrameResult → Bool
  | .drop _ => false
  | .record r => flagsClean r.flags

/-- The result is a degraded record (R198). -/
def FrameResult.isDegraded : FrameResult → Bool
  | .drop _ => false
  | .record r => !flagsClean r.flags

/-- The result is a drop (R198). -/
def FrameResult.isDrop : FrameResult → Bool
  | .drop _ => true
  | .record _ => false

/-- The record bytes of a result; none for a drop (R199). -/
def FrameResult.recordBytes : FrameResult → Bytes
  | .drop _ => []
  | .record r => r.bytes

/-- The drop-log entry of the frame at marker offset `o`: `u32be(o) ++ [reason]`; none for a record (R199). -/
def FrameResult.dropEntry (o : Nat) : FrameResult → Bytes
  | .drop reason => u32be (BitVec.ofNat 32 o) ++ [reason.code]
  | .record _ => []

/-- Every located frame's offset and outcome, in capture order (R187, R200, R201, R202). The body is the extent without its
4 marker bytes. -/
def captureFrames (c : Config) (cap : Bytes) : List (Nat × FrameResult) :=
  (frameExtents cap.length (markerOffsets cap)).map fun oe => (oe.1, decodeFrame c (slice (oe.1 + 4) oe.2 cap) oe.1)

/-- `N_clean` (R199). -/
def countClean (fs : List (Nat × FrameResult)) : Nat := fs.countP fun f => f.2.isClean
/-- `N_degraded` (R199). -/
def countDegraded (fs : List (Nat × FrameResult)) : Nat := fs.countP fun f => f.2.isDegraded
/-- `N_dropped` (R199). -/
def countDropped (fs : List (Nat × FrameResult)) : Nat := fs.countP fun f => f.2.isDrop

/-- The result of PA.CAPT: `N_rec`, the records, the three counts, the drop log (R199). -/
def captureResult (fs : List (Nat × FrameResult)) : Bytes :=
  u32be (BitVec.ofNat 32 (countClean fs + countDegraded fs)) ++ fs.flatMap (fun f => f.2.recordBytes)
    ++ u32be (BitVec.ofNat 32 (countClean fs)) ++ u32be (BitVec.ofNat 32 (countDegraded fs))
    ++ u32be (BitVec.ofNat 32 (countDropped fs)) ++ fs.flatMap (fun f => f.2.dropEntry f.1)

/-- The frame counters grow by a command's totals, once, at its end (R33, R53). -/
def State.countFrames (s : State) (nc nd nx : Nat) : State := { s with cnt := s.cnt.addFrames nc nd nx }

/-- How PA.FRAME ends (R197): a drop counts and is raised; a record counts as clean or degraded and is the result. -/
def State.finishFrame (s : State) (res : FrameResult) : State :=
  match res with
  | .drop reason => (s.countFrames 0 0 1).raise reason
  | .record r => (if flagsClean r.flags then s.countFrames 1 0 0 else s.countFrames 0 1 0).respond .ok r.bytes

/-- PA.FRAME (R197): the record's `OFFSET` is 0 (D43). -/
def execPaFrame (op : Bytes) (s : State) : Host.Outcome State Fault Refusal :=
  withOperand s (operandOB s.cfg.val op) fun body => s.finishFrame (decodeFrame s.cfg.val body 0)

/-- PA.CAPT (R200). -/
def execPaCapt (op : Bytes) (s : State) : Host.Outcome State Fault Refusal :=
  withOperand s (operandOB s.cfg.val op) fun cap =>
    let fs := captureFrames s.cfg.val cap
    (s.countFrames (countClean fs) (countDegraded fs) (countDropped fs)).respond .ok (captureResult fs)

end Sys2Proof.Machine
end

