-- ==== Sys2Proof/Machine/FrameCodec.lean ====
section
/-! DEFINITION. FrameCodec, the KISS-style byte-stuffer (40_framecodec.md): ESCAPE, UNESCAPE, the deframer, and the commands
FC.ESC, FC.UNESC, FC.FRAME, FC.RX, FC.RXRST. -/

namespace Sys2Proof.Machine

/-- What one byte becomes inside a frame (R91). -/
def escapeByte (b : Byte) : Bytes :=
  if b = fend then [fesc, tfend] else if b = fesc then [fesc, tfesc] else [b]

/-- `ESCAPE` (R92). -/
def escape (d : Bytes) : Bytes := d.flatMap escapeByte

/-- `UNESCAPE` (R93). The first error in byte order ends it; a bare 0xC0 passes through. -/
def unescape : Bytes → Except Status Bytes
  | [] => .ok []
  | [b] => if b = fesc then .error .incompleteEscape else .ok [b]
  | b :: c :: rest =>
    if b = fesc then
      if c = tfend then (unescape rest).map (fend :: ·)
      else if c = tfesc then (unescape rest).map (fesc :: ·)
      else .error .invalidEscape
    else (unescape (c :: rest)).map (b :: ·)

/-- The frame FC.FRAME builds: sentinel, address as it is, escaped payload, sentinel (R96). DESIGN CHOICE, unsafe
(notes/assumptions/12.md): R70 and R96 make its length `LEN + 2 + count`, R82's list says `LEN + 1 + count`, and no ruling
settles it; the model follows R70 and R96. -/
def frameBytes (a : Byte) (d : Bytes) : Bytes := [fend, a] ++ escape d ++ [fend]

/-- What the deframer does with one byte: the status, the result, and its next state (R97). -/
structure RxOutcome where
  status : Status
  result : Bytes
  rx : Deframer
deriving DecidableEq, Repr

/-- `APPEND(c)` (R102): the byte is kept while the buffer has room; else the frame is discarded and the deframer hunts. -/
def rxAppend (rxbufMax : Nat) (rx : Deframer) (c : Byte) : RxOutcome :=
  if rx.buf.length < rxbufMax then
    { status := .ok, result := [], rx := { rx with state := .data, buf := rx.buf ++ [c] } }
  else
    { status := .rxOverflow, result := [], rx := { rx with state := .hunt, buf := [] } }

/-- State HUNT (R98). -/
def rxHunt (rx : Deframer) (b : Byte) : RxOutcome :=
  if b = fend then { status := .ok, result := [], rx := { rx with state := .addr } }
  else { status := .ok, result := [], rx := rx }

/-- State ADDR (R99): the address byte is taken as it is, 0xDB included. -/
def rxAddr (rx : Deframer) (b : Byte) : RxOutcome :=
  if b = fend then { status := .ok, result := [], rx := rx }
  else { status := .ok, result := [], rx := { state := .data, addr := b, buf := [] } }

/-- State DATA (R100): a closing sentinel delivers the frame and opens the next one. -/
def rxData (rxbufMax : Nat) (rx : Deframer) (b : Byte) : RxOutcome :=
  if b = fend then { status := .okFrame, result := rx.addr :: rx.buf, rx := { rx with state := .addr, buf := [] } }
  else if b = fesc then { status := .ok, result := [], rx := { rx with state := .esc } }
  else rxAppend rxbufMax rx b

/-- State ESC (R101). -/
def rxEsc (rxbufMax : Nat) (rx : Deframer) (b : Byte) : RxOutcome :=
  if b = tfend then rxAppend rxbufMax rx fend
  else if b = tfesc then rxAppend rxbufMax rx fesc
  else if b = fend then { status := .incompleteEscape, result := [], rx := { rx with state := .addr, buf := [] } }
  else { status := .invalidEscape, result := [], rx := { rx with state := .hunt, buf := [] } }

/-- `DEFRAMER_STEP` (R97 to R103): total over every state and byte. -/
def deframerStep (rxbufMax : Nat) (rx : Deframer) (b : Byte) : RxOutcome :=
  match rx.state with
  | .hunt => rxHunt rx b
  | .addr => rxAddr rx b
  | .data => rxData rxbufMax rx b
  | .esc => rxEsc rxbufMax rx b

/-- How FC.RX ends (R103): the deframer takes its next state, the RX counters count the status, and the response carries it. -/
def State.finishRx (s : State) (o : RxOutcome) : State :=
  ({ s with rx := o.rx, cnt := s.cnt.countRx o.status }).respond o.status o.result

/-- FC.ESC (R94). -/
def execFcEsc (op : Bytes) (s : State) : Host.Outcome State Fault Refusal :=
  withOperand s (operandOB s.cfg.val op) fun d => s.respond .ok (escape d)

/-- FC.UNESC (R95): its errors touch neither the deframer nor `CNT_RX_ERRORS`. -/
def execFcUnesc (op : Bytes) (s : State) : Host.Outcome State Fault Refusal :=
  withOperand s (operandOB s.cfg.val op) fun d =>
    match unescape d with
    | .error st => s.raise st
    | .ok r => s.respond .ok r

/-- FC.FRAME (R96): an address of 0xC0 is BAD_OPERAND. -/
def execFcFrame (op : Bytes) (s : State) : Host.Outcome State Fault Refusal :=
  withOperand s (operandOA s.cfg.val op) fun ad =>
    if ad.1 = fend then s.raise .badOperand else s.respond .ok (frameBytes ad.1 ad.2)

/-- FC.RX (R103). -/
def execFcRx (op : Bytes) (s : State) : Host.Outcome State Fault Refusal :=
  withOperand s (operandO1 s.cfg.val op) fun b => s.finishRx (deframerStep s.cfg.val.rxbufMax s.rx b)

/-- FC.RXRST (R104): `RX.ADDR` and the counters keep their values. -/
def execFcRxrst (op : Bytes) (s : State) : Host.Outcome State Fault Refusal :=
  withOperand s (operandO0 s.cfg.val op) fun _ =>
    ({ s with rx := { s.rx with state := .hunt, buf := [] } }).respond .ok []

end Sys2Proof.Machine
end

