-- ==== Sys2Proof/Machine/System.lean ====
section
/-! DEFINITION. The system commands (46_system.md): NOP, REG.RD with the register map of 10_state.md rules R27 to R35, CNT.CLR and
RESET. -/

namespace Sys2Proof.Machine

/-- Register ID (R27). -/
def idWord : BitVec 32 := 0x4B495353#32

/-- Register VERSION (R28). -/
def versionWord : BitVec 32 := 0x00000007#32

/-- The register of an index; `none` for an unassigned one (R27 to R35, R217). -/
def readRegister (s : State) (i : Byte) : Option (BitVec 32) :=
  match i.toNat with
  | 0x00 => some idWord
  | 0x01 => some versionWord
  | 0x02 => some (statusWord s)
  | 0x03 => some (s.rx.addr.setWidth 32)
  | 0x04 => some (paramWord s.cfg.val)
  | 0x05 => some (crccfgWord s.cfg.val)
  | 0x10 => some s.cnt.clean
  | 0x11 => some s.cnt.degraded
  | 0x12 => some s.cnt.dropped
  | 0x13 => some s.cnt.rxFrames
  | 0x14 => some s.cnt.rxErrors
  | 0x15 => some s.cnt.cmdErrors
  | _ => none

/-- How REG.RD answers for an index: the register, or BAD_OPERAND (R35, R217). No state is written either way. -/
def State.answerRegister (s : State) (i : Byte) : State :=
  match readRegister s i with
  | some v => s.answerQuietly .ok (u32be v)
  | none => s.answerQuietly .badOperand []

/-- NOP (R216). -/
def execNop (op : Bytes) (s : State) : Host.Outcome State Fault Refusal :=
  withOperand s (operandO0 s.cfg.val op) fun _ => s.respond .ok []

/-- REG.RD (R217): it writes no state, even when it fails (R34). -/
def execRegRd (op : Bytes) (s : State) : Host.Outcome State Fault Refusal :=
  match operandOR s.cfg.val op with
  | .error st => .next (s.answerQuietly st [])
  | .ok i => .next (s.answerRegister i)

/-- CNT.CLR (R218): the six counters become 0; the deframer is not touched. -/
def execCntClr (op : Bytes) (s : State) : Host.Outcome State Fault Refusal :=
  withOperand s (operandO0 s.cfg.val op) fun _ => ({ s with cnt := Counters.zero }).respond .ok []

/-- RESET (R219): the reset takes effect before its response is emitted (R252). -/
def execReset (op : Bytes) (s : State) : Host.Outcome State Fault Refusal :=
  withOperand s (operandO0 s.cfg.val op) fun _ => s.resetPersistent.respond .ok []

end Sys2Proof.Machine
end

