-- ==== Sys2Proof/Machine/Dispatch.lean ====
section
/-! DEFINITION. exec: one arm per command, each one direct call of its meaning. -/

namespace Sys2Proof.Machine

def exec (i : Instr) (s : State) : Host.Outcome State Fault Refusal :=
  match i with
  | .fcEsc op => Sys2Proof.Machine.execFcEsc op s
  | .fcUnesc op => Sys2Proof.Machine.execFcUnesc op s
  | .fcFrame op => Sys2Proof.Machine.execFcFrame op s
  | .fcRx op => Sys2Proof.Machine.execFcRx op s
  | .fcRxrst op => Sys2Proof.Machine.execFcRxrst op s
  | .dlFind op => Sys2Proof.Machine.execDlFind op s
  | .dsDesc op => Sys2Proof.Machine.execDsDesc op s
  | .dsDescs op => Sys2Proof.Machine.execDsDescs op s
  | .fecHchk op => Sys2Proof.Machine.execFecHchk op s
  | .fecHdec op => Sys2Proof.Machine.execFecHdec op s
  | .fecPchk op => Sys2Proof.Machine.execFecPchk op s
  | .fecPdec op => Sys2Proof.Machine.execFecPdec op s
  | .crRec op => Sys2Proof.Machine.execCrRec op s
  | .crcCalc op => Sys2Proof.Machine.execCrcCalc op s
  | .crcRef op => Sys2Proof.Machine.execCrcRef op s
  | .paFrame op => Sys2Proof.Machine.execPaFrame op s
  | .paCapt op => Sys2Proof.Machine.execPaCapt op s
  | .nop op => Sys2Proof.Machine.execNop op s
  | .regRd op => Sys2Proof.Machine.execRegRd op s
  | .cntClr op => Sys2Proof.Machine.execCntClr op s
  | .reset op => Sys2Proof.Machine.execReset op s

end Sys2Proof.Machine
end

