-- ==== Sys2Proof/Machine/Fetch.lean ====
section
/-! DEFINITION. Fetching: what the command parser finds at its position, and a packet put there for the next step to read
(10_state.md rule R22, 30_encoding.md rules R66, R67). -/

namespace Sys2Proof.Machine

/-- The bytes that have arrived on the command port and that the parser has not read yet (R22). -/
def State.pending (s : State) : Bytes := s.cmdStream.drop s.cmdPos

/-- What stands at the parser's position (R67). -/
def State.fetch (s : State) : Decoded := decode s.pending

/-- The command stream as if exactly `bs` had arrived behind the parser's position: what the parser has read stays, and what was
pending is replaced. (A position beyond the stream, which no run reaches, is first filled up with zeros.) -/
def State.withPending (s : State) (bs : Bytes) : State :=
  { s with cmdStream := (padZeros s.cmdPos s.cmdStream).take s.cmdPos ++ bs }

end Sys2Proof.Machine
end

