-- ==== Sys2Proof/Machine/Step.lean ====
section
/-! DEFINITION. One step of the block: it reads the next whole command packet and executes it (20_memory.md rule R53). -/

namespace Sys2Proof.Machine

/-- One step. A whole packet at the parser's position is read, the parser moves past it (R22, R67), and the command is executed
atomically (R53), or the packet is answered with ILLEGAL_OPCODE (R228). While no whole packet has arrived the block waits,
keeping all its state, without limit of time (R67, R250, R259, I24). -/
def step (s : State) : Host.Outcome State Fault Refusal :=
  match s.fetch with
  | .command i size => exec i (s.advance size)
  | .illegalOpcode _ size => .next (illegalOpcodeStep (s.advance size))
  | .incomplete => .next s

/-- `s` with exactly the packet of an opcode-table word waiting on the command port, for the next step to read: the host sends
it (R66). Nothing else changes. -/
def State.withFetchWord (s : State) (nbits w : Nat) : State := s.withPending (tablePacket nbits w)

end Sys2Proof.Machine
end

