-- ==== Sys2Proof/Machine/Reference.lean ====
section
/-! DEFINITION. The transmit-side reference functions: SCRAMBLE (42_descrambler.md rule R131), RS_ENCODE and the generator
polynomials (43_blockfec.md rules R145, R150, R165), ENCODE_CHECKSUM (44_checksum.md rule R173) and BUILD_BODY
(45_assembler.md rule R206). The block has no command for them (R6); the spec's laws are stated with them. -/

namespace Sys2Proof.Machine

/-- The bits sent for a stream of plain bits: `b = p XOR s[0]`, the state fed with the sent bit (R131). -/
def scrambleBits : BitVec 9 → List Bool → List Bool
  | _, [] => []
  | s, p :: ps => (p ^^ s.getLsbD 0) :: scrambleBits (scramblerNext s (p ^^ s.getLsbD 0)) ps

/-- `SCRAMBLE(blk, s0)` (R131). -/
def scramble (blk : Bytes) (s0 : BitVec 9) : Bytes := packBits (scrambleBits s0 (unpackBits blk))

/-- The generator polynomial `g_t(x) = Π (x − α^(RS_FCR + j))`, lowest power first (R145). -/
def genPoly (c : Config) (t : Nat) : Bytes :=
  (List.range t).foldl (fun g j => polyMul [alphaPow c (c.rsFcr + j), 1#8] g) [1#8]

/-- The generator polynomial from `x^t` down to `x^0`, as R145 and R165 list it. -/
def genPolyHigh (c : Config) (t : Nat) : Bytes := (genPoly c t).reverse

/-- The division loop of RS_ENCODE (R150): `k` message bytes are left at the head of `w`; `g` is `g_t` without its leading 1. -/
def rsDivide (g : Bytes) : Nat → Bytes → Bytes
  | 0, w => w
  | _ + 1, [] => []
  | k + 1, b :: w => rsDivide g k (polyAdd (polyScale b g) w)

/-- `RS_ENCODE(m, t)` (R150): the message, then the remainder of `M(x)·x^t` by `g_t`. -/
def rsEncode (c : Config) (m : Bytes) (t : Nat) : Bytes :=
  m ++ rsDivide (genPolyHigh c t).tail m.length (m ++ List.replicate t 0#8)

/-- `ENCODE_CHECKSUM(C)` with the nibble encoder `ENC` (R173). -/
def encodeChecksum (enc : BitVec 4 → Byte) (v : BitVec 16) : Bytes :=
  [enc (v.extractLsb' 12 4), enc (v.extractLsb' 8 4), enc (v.extractLsb' 4 4), enc (v.extractLsb' 0 4)]

/-- `BUILD_BODY(h, p, spare)` (R206). -/
def buildBody (c : Config) (enc : BitVec 4 → Byte) (h p : Bytes) (spare : Byte) : Bytes :=
  let core := rsEncode c (scramble h dsInit) hparLen ++ rsEncode c (scramble p dsInit) pparLen
    ++ encodeChecksum enc (refCrc c p)
  match c.sparePos with
  | .trail => core ++ [spare]
  | .lead => spare :: core

end Sys2Proof.Machine
end

