-- ==== Sys2Proof/Safety.lean ====
section
/-! DEFINITION. The terms the claims use: what a response looks like, how a command leaves the block when it ends, the legal
operand lengths, the invariant of the block, and feeding the deframer byte by byte. -/

namespace Sys2Proof.Machine

/-- A response packet with the status byte `sts` (R68). -/
def packet (sts : Byte) (result : Bytes) : Bytes := sts :: u32be (rlen result.length) ++ result

/-- The block after a command that writes only `LAST_STS` and answers (R34, R68). -/
def answer (s : State) (sts : Byte) (result : Bytes) : State :=
  { s with lastSts := sts, rspStream := s.rspStream ++ packet sts result }

/-- The block after a command error: `LAST_STS`, `CNT_CMD_ERRORS`, and an empty response (R230 a, b). -/
def commandError (s : State) (sts : Byte) : State :=
  answer { s with cnt := { s.cnt with cmdErrors := s.cnt.cmdErrors + 1#32 } } sts []

/-- The eleven status codes of R226. -/
def assignedCodes : Bytes :=
  [0x00#8, 0x01#8, 0x80#8, 0x81#8, 0x82#8, 0x90#8, 0x91#8, 0x92#8, 0xA0#8, 0xB0#8, 0xB1#8]

/-- The column "legal LEN" of R70, with the bound `MAX_OPERAND` that R81 puts on every command. -/
def legalLen (c : Config) (i : Instr) : Prop :=
  i.operand.length ≤ c.maxOperand ∧
  match i with
  | .fcEsc _ => True
  | .fcUnesc _ => True
  | .fcFrame op => 1 ≤ op.length
  | .fcRx op => op.length = 1
  | .fcRxrst op => op.length = 0
  | .dlFind _ => True
  | .dsDesc _ => True
  | .dsDescs op => 2 ≤ op.length
  | .fecHchk op => op.length = 15
  | .fecHdec op => op.length = 15
  | .fecPchk op => 16 ≤ op.length ∧ op.length ≤ 255
  | .fecPdec op => 16 ≤ op.length ∧ op.length ≤ 255
  | .crRec op => op.length = 4
  | .crcCalc _ => True
  | .crcRef _ => True
  | .paFrame _ => True
  | .paCapt _ => True
  | .nop op => op.length = 0
  | .regRd op => op.length = 1
  | .cntClr op => op.length = 0
  | .reset op => op.length = 0

/-- The command is REG.RD, the one command that writes no state (R34). -/
def isRegRd : Instr → Bool
  | .regRd _ => true
  | .fcEsc _ | .fcUnesc _ | .fcFrame _ | .fcRx _ | .fcRxrst _ | .dlFind _ | .dsDesc _ | .dsDescs _ | .fecHchk _
  | .fecHdec _ | .fecPchk _ | .fecPdec _ | .crRec _ | .crcCalc _ | .crcRef _ | .paFrame _ | .paCapt _ | .nop _
  | .cntClr _ | .reset _ => false

/-- The command is FC.RX. -/
def isFcRx : Instr → Bool
  | .fcRx _ => true
  | .fcEsc _ | .fcUnesc _ | .fcFrame _ | .fcRxrst _ | .dlFind _ | .dsDesc _ | .dsDescs _ | .fecHchk _ | .fecHdec _
  | .fecPchk _ | .fecPdec _ | .crRec _ | .crcCalc _ | .crcRef _ | .paFrame _ | .paCapt _ | .nop _ | .regRd _
  | .cntClr _ | .reset _ => false

/-- The command is PA.FRAME or PA.CAPT. -/
def isPa : Instr → Bool
  | .paFrame _ | .paCapt _ => true
  | .fcEsc _ | .fcUnesc _ | .fcFrame _ | .fcRx _ | .fcRxrst _ | .dlFind _ | .dsDesc _ | .dsDescs _ | .fecHchk _
  | .fecHdec _ | .fecPchk _ | .fecPdec _ | .crRec _ | .crcCalc _ | .crcRef _ | .nop _ | .regRd _ | .cntClr _
  | .reset _ => false

/-- The illegal opcode values, as R71 lists them. -/
def listedIllegal (opc : Byte) : Prop :=
  opc.toNat = 0x00 ∨ (0x06 ≤ opc.toNat ∧ opc.toNat ≤ 0x0F) ∨ (0x11 ≤ opc.toNat ∧ opc.toNat ≤ 0x1F)
  ∨ (0x22 ≤ opc.toNat ∧ opc.toNat ≤ 0x2F) ∨ (0x34 ≤ opc.toNat ∧ opc.toNat ≤ 0x3F)
  ∨ (0x41 ≤ opc.toNat ∧ opc.toNat ≤ 0x4F) ∨ (0x52 ≤ opc.toNat ∧ opc.toNat ≤ 0x5F)
  ∨ (0x62 ≤ opc.toNat ∧ opc.toNat ≤ 0x6F) ∨ (0x73 ≤ opc.toNat ∧ opc.toNat ≤ 0x7E)
  ∨ (0x80 ≤ opc.toNat ∧ opc.toNat ≤ 0xFF)

/-- Bit `k` of a block's bit stream, false beyond its end (R127, R132). -/
def streamBit (blk : Bytes) (k : Nat) : Bool := (unpackBits blk).getD k false

/-- The block with one bit of its stream flipped (R133). -/
def flipBit (blk : Bytes) (k : Nat) : Bytes := packBits ((unpackBits blk).set k (!streamBit blk k))

/-- The block with the error value `e` added to the byte at position `i` (R148). -/
def withError (r : Bytes) (i : Nat) (e : Byte) : Bytes := r.set i (r.getD i 0#8 ^^^ e)

/-- `enc` is a nibble encoder for which the table meets law L1 of R171. -/
def lawL1 (t : NibbleTable) (enc : BitVec 4 → Byte) : Prop := ∀ v, nibbleAt t (enc v) = v

/-- `enc` is a nibble encoder for which the table meets law L2 of R171. -/
def lawL2 (t : NibbleTable) (enc : BitVec 4 → Byte) : Prop :=
  ∀ v i, i < 8 → nibbleAt t (enc v ^^^ (1#8 <<< i)) = v

/-- The outcomes of frame bodies that stand one after the other, each behind its marker, the first marker at offset `o` (R187). -/
def placedBodies (c : Config) (o : Nat) : List Bytes → List (Nat × FrameResult)
  | [] => []
  | b :: bs => (o, decodeFrame c b o) :: placedBodies c (o + 4 + b.length) bs

/-- The capture in which each body stands behind a marker (R205). -/
def markedBodies (bodies : List Bytes) : Bytes := bodies.flatMap (marker ++ ·)

/-- The outcomes of the frames a command locates: one for PA.FRAME, one behind each marker for PA.CAPT, none for a PA command
whose operand is too long and for every other command (R187, R197, R200). -/
def locatedFrames (c : Config) (i : Instr) : List FrameResult :=
  match i with
  | .paFrame op => if op.length ≤ c.maxOperand then [decodeFrame c op 0] else []
  | .paCapt op => if op.length ≤ c.maxOperand then (captureFrames c op).map (·.2) else []
  | .fcEsc _ | .fcUnesc _ | .fcFrame _ | .fcRx _ | .fcRxrst _ | .dlFind _ | .dsDesc _ | .dsDescs _ | .fecHchk _
  | .fecHdec _ | .fecPchk _ | .fecPdec _ | .crRec _ | .crcCalc _ | .crcRef _ | .nop _ | .regRd _ | .cntClr _
  | .reset _ => []

/-- The index of the spare byte in a frame body (R188). -/
def spareIndex (c : Config) (body : Bytes) : Nat :=
  match c.sparePos with
  | .trail => body.length - 1
  | .lead => 0

/-- The bytes are whole response packets in a row, each with an assigned status, and with no result where the status is an
error (R68, R89, R226). -/
def IsPackets (bs : Bytes) : Prop :=
  ∃ ps : List (Byte × Bytes), bs = ps.flatMap (fun p => packet p.1 p.2) ∧
    ∀ p ∈ ps, p.1 ∈ assignedCodes ∧ (p.1.getLsbD 7 = true → p.2 = [])

/-- The invariant of the block. -/
structure State.Inv (s : State) : Prop where
  /-- `RX.BUF` holds at most `RXBUF_MAX` bytes (R26, R102). -/
  bufBound : s.rx.buf.length ≤ s.cfg.val.rxbufMax
  /-- Outside a frame `RX.BUF` is empty (R26, R98 to R102). -/
  bufEmpty : s.rx.state = .hunt ∨ s.rx.state = .addr → s.rx.buf = []
  /-- `LAST_STS` is an assigned status code (R34, R226). -/
  lastAssigned : s.lastSts ∈ assignedCodes
  /-- The parser has read only bytes that have arrived (R67). -/
  posBound : s.cmdPos ≤ s.cmdStream.length
  /-- The response port has carried whole packets (R68). -/
  packets : IsPackets s.rspStream

/-- The bytes fed to the deframer, one FC.RX command each (`FC.RXS`, R87). -/
def feed : Bytes → State → Host.Outcome State Fault Refusal
  | [], s => .next s
  | b :: bs, s =>
    match exec (.fcRx [b]) s with
    | .next t => feed bs t
    | .fault r => .fault r
    | .refused r => .refused r

end Sys2Proof.Machine
end

