-- ==== Sys2Proof/Certificates/Slice0/Obligations.lean ====
section
/-! DEFINITION. The statements for the provers, in the order of OBLIGATIONS.json. `answer`, `commandError`, `packet`, `legalLen`
and the other terms they use stand in Safety.lean. -/

open Sys2Proof Sys2Proof.Machine

/-! ### Packets, decoding, stepping -/

/-- R66, R67, R85: the parser reads back every packet the encoder writes, whatever bytes follow it. -/
def Obligations.DecodeInvertsEncode : Prop :=
  ∀ (i : Instr) (rest : Bytes), i.WellFormed → decode (encode i ++ rest) = .command i (5 + i.operand.length)

/-- R66, R67: a command the parser reads is well-formed, and its packet is exactly the bytes read: no byte is dropped or
altered. -/
def Obligations.EncodeInvertsDecode : Prop :=
  ∀ (bs : Bytes) (i : Instr) (n : Nat), decode bs = .command i n →
    i.WellFormed ∧ n = 5 + i.operand.length ∧ n ≤ bs.length ∧ bs.take n = encode i

/-- R70, R71, R84: each of the 256 opcode values is either illegal, and then listed in R71, or the opcode of one command. -/
def Obligations.OpcodesAreTheTable : Prop :=
  ∀ (opc : Byte) (op : Bytes),
    (listedIllegal opc ∧ decodeOpcode opc op = none) ∨
    (¬listedIllegal opc ∧ ∃ i, decodeOpcode opc op = some i ∧ i.opcode = opc ∧ i.operand = op)

/-- R66, R70, R86: packets written out from the encoding decode to the commands they stand for. -/
def Obligations.SpecPacketsDecode : Prop :=
  decode [0x03#8, 0x00#8, 0x00#8, 0x00#8, 0x05#8, 0x00#8, 0x01#8, 0xC0#8, 0xDB#8, 0x02#8]
      = .command (.fcFrame [0x00#8, 0x01#8, 0xC0#8, 0xDB#8, 0x02#8]) 10 ∧
  decode [0x71#8, 0x00#8, 0x00#8, 0x00#8, 0x01#8, 0x15#8] = .command (.regRd [0x15#8]) 6 ∧
  decode [0x21#8, 0x00#8, 0x00#8, 0x00#8, 0x03#8, 0x01#8, 0xF0#8, 0x12#8] = .command (.dsDescs [0x01#8, 0xF0#8, 0x12#8]) 8 ∧
  decode [0x7F#8, 0x00#8, 0x00#8, 0x00#8, 0x00#8] = .command (.reset []) 5 ∧
  decode [0x00#8, 0x00#8, 0x00#8, 0x00#8, 0x00#8] = .illegalOpcode 0x00#8 5

/-- R22, R53, R67: when the bytes at the parser's position decode to a command, a step moves the parser past the packet and
executes exactly that command. -/
def Obligations.StepRunsTheDecodedCommand : Prop :=
  ∀ (s : State) (i : Instr) (n : Nat), decode (s.cmdStream.drop s.cmdPos) = .command i n →
    i.WellFormed → step s = exec i { s with cmdPos := s.cmdPos + n }

/-- R228: every opcode listed in R71, with whatever operand, is read, discarded and answered `80 00 00 00 00`; `LAST_STS`
becomes 0x80, `CNT_CMD_ERRORS` increments, and nothing else changes, even when `LEN > MAX_OPERAND`. -/
def Obligations.IllegalOpcodeIsAnswered : Prop :=
  ∀ (s : State) (opc : Byte) (op rest : Bytes), listedIllegal opc → op.length < 2 ^ 32 →
    s.cmdStream.drop s.cmdPos = opc :: u32be (BitVec.ofNat 32 op.length) ++ op ++ rest →
    step s = .next
      { s with
        cmdPos := s.cmdPos + (5 + op.length)
        lastSts := 0x80#8
        cnt := { s.cnt with cmdErrors := s.cnt.cmdErrors + 1#32 }
        rspStream := s.rspStream ++ [0x80#8, 0x00#8, 0x00#8, 0x00#8, 0x00#8] }

/-- R67, R259: while fewer than `5 + LEN` bytes have arrived the block waits and keeps all its state. That waiting is a step
which changes nothing is the model's choice (notes/assumptions/5.md). -/
def Obligations.IncompletePacketWaits : Prop :=
  ∀ s : State, s.pending.length < 5 ∨ s.pending.length < 5 + announcedLen s.pending → step s = .next s

/-- R241, R242, R267: nothing stops the block: every command has a next state, and so has every step. That a step at an
incomplete packet, which I24 calls stuck, answers the same state is the model's choice (notes/assumptions/5.md). -/
def Obligations.EveryStepCompletes : Prop :=
  (∀ (i : Instr) (s : State), ∃ t, exec i s = .next t) ∧ ∀ s : State, ∃ t, step s = .next t

/-- R68, R89, R226: a step waits, or it reads one packet and emits exactly one response packet, whose status is one of the
eleven assigned codes and whose result is empty if the status is an error. -/
def Obligations.EveryPacketIsAnsweredOnce : Prop :=
  ∀ s t : State, step s = .next t →
    (s.fetch = .incomplete ∧ t = s) ∨
    ∃ (n : Nat) (sts : Byte) (result : Bytes), 5 ≤ n ∧ n ≤ s.pending.length ∧ t.cmdPos = s.cmdPos + n ∧
      t.rspStream = s.rspStream ++ packet sts result ∧ sts ∈ assignedCodes ∧ (sts.getLsbD 7 = true → result = [])

/-- R63, R68: with `MAX_OPERAND ≤ 2^31 − 1`, the `RLEN` field of every response is the length of its result. -/
def Obligations.ResponseLengthFieldIsTrue : Prop :=
  ∀ (i : Instr) (s t : State), s.Inv → s.cfg.val.maxOperand ≤ 2 ^ 31 - 1 → exec i s = .next t →
    ∃ (sts : Byte) (result : Bytes), result.length < 2 ^ 32 ∧
      t.rspStream = s.rspStream ++ (sts :: u32be (BitVec.ofNat 32 result.length) ++ result)

/-! ### The whole state -/

/-- R26, R68, R102, R226: every step keeps the invariant of the block, from every state that has it. -/
def Obligations.InvariantKeptByEveryStep : Prop :=
  ∀ s t : State, s.Inv → step s = .next t → t.Inv

/-- The invariant holds right after reset, in the reference configuration and in any other. -/
def Obligations.InvariantHoldsAtReset : Prop :=
  State.reset.Inv ∧ ∀ c : ValidConfig, (State.resetWith c).Inv

/-- R41, R219, R251, R252: power-on and RESET put every element of the persistent state to its reset value; RESET keeps the
ports' history and the configuration, and answers `00 00 00 00 00`. -/
def Obligations.BothResetsGiveTheResetValues : Prop :=
  (∀ (c : Config) (h : configValid c = true), State.powerOn c = .next
    { rx := { state := .hunt, addr := 0x00#8, buf := [] }, lastSts := 0x00#8,
      cnt := { clean := 0#32, degraded := 0#32, dropped := 0#32, rxFrames := 0#32, rxErrors := 0#32, cmdErrors := 0#32 },
      cmdStream := [], cmdPos := 0, rspStream := [], cfg := ⟨c, h⟩ }) ∧
  State.powerOn referenceConfig.val = .next State.reset ∧
  ∀ s : State, exec (.reset []) s = .next
    { s with
      rx := { state := .hunt, addr := 0x00#8, buf := [] }
      lastSts := 0x00#8
      cnt := { clean := 0#32, degraded := 0#32, dropped := 0#32, rxFrames := 0#32, rxErrors := 0#32, cmdErrors := 0#32 }
      rspStream := s.rspStream ++ [0x00#8, 0x00#8, 0x00#8, 0x00#8, 0x00#8] }

/-- R10, R164, R171: parameters are a configuration of this block iff they are in range, `RS_GEN` is primitive and some nibble
encoder meets L1 and L2; the block can be powered on with every such configuration, and refuses any other parameters. -/
def Obligations.OnlySpecConfigurationsRun : Prop :=
  (∀ c : Config, configValid c = true ↔
    c.rsFcr ≤ 254 ∧ c.rsGen ≠ 0#8 ∧ (∀ e, 1 ≤ e → e ≤ 254 → gfPow c.rsGen e ≠ 1#8) ∧
    (∃ enc, lawL1 c.nibbleTable enc ∧ lawL2 c.nibbleTable enc) ∧
    1 ≤ c.maxOperand ∧ c.maxOperand ≤ 2 ^ 32 - 1 ∧ 1 ≤ c.rxbufMax ∧ c.rxbufMax ≤ 65535) ∧
  (∀ c : Config, configValid c = true → ∃ s : State, State.powerOn c = .next s ∧ s.cfg.val = c) ∧
  ∀ c : Config, configValid c = false → State.powerOn c = .refused .invalidConfiguration

/-- R21, R22, R59, R254: no step changes the configuration or the command stream, takes back a response, or moves the parser
backwards. -/
def Obligations.StepKeepsConfigurationAndPorts : Prop :=
  ∀ s t : State, step s = .next t →
    t.cfg = s.cfg ∧ t.cmdStream = s.cmdStream ∧ s.rspStream <+: t.rspStream ∧ s.cmdPos ≤ t.cmdPos

/-- R24, R26, R109, R258: only FC.RX, FC.RXRST and RESET change the deframer. -/
def Obligations.OnlyDeframerCommandsWriteTheDeframer : Prop :=
  ∀ (i : Instr) (s t : State), exec i s = .next t →
    (∀ op, i ≠ .fcRx op ∧ i ≠ .fcRxrst op ∧ i ≠ .reset op) → t.rx = s.rx

/-- R25: the address byte is written on the ADDR to DATA transition, and kept by every other transition of every other command
but RESET; register 0x03 reads it. -/
def Obligations.AddressIsWrittenOnlyOnAddrToData : Prop :=
  (∀ (i : Instr) (s t : State), exec i s = .next t → (∀ op, i ≠ .reset op) →
    t.rx.addr = s.rx.addr ∨
    ∃ b, i = .fcRx [b] ∧ s.rx.state = .addr ∧ b ≠ 0xC0#8 ∧ t.rx.state = .data ∧ t.rx.addr = b) ∧
  (∀ (s t : State) (b : Byte), s.rx.state = .addr → exec (.fcRx [b]) s = .next t → t.rx.state = .data → t.rx.addr = b) ∧
  ∀ s : State, exec (.regRd [0x03#8]) s = .next
    { s with rspStream := s.rspStream ++ packet 0x00#8 [0x00#8, 0x00#8, 0x00#8, s.rx.addr] }

/-- R33: outside a CNT.CLR and a RESET that take effect, each counter counts exactly its events: `CNT_CLEAN`, `CNT_DEGRADED`
and `CNT_DROPPED` the clean and degraded records and the drops of PA.FRAME and PA.CAPT; `CNT_RX_FRAMES` and `CNT_RX_ERRORS`
FC.RX's frames and errors; `CNT_CMD_ERRORS` the responses BAD_LENGTH and BAD_OPERAND of every command but REG.RD, and every
illegal opcode. -/
def Obligations.CountersCountTheirEvents : Prop :=
  (∀ (i : Instr) (s t : State), exec i s = .next t → i ≠ .cntClr [] → i ≠ .reset [] →
    t.cnt.clean = s.cnt.clean + BitVec.ofNat 32 ((locatedFrames s.cfg.val i).countP FrameResult.isClean) ∧
    t.cnt.degraded = s.cnt.degraded + BitVec.ofNat 32 ((locatedFrames s.cfg.val i).countP FrameResult.isDegraded) ∧
    t.cnt.dropped = s.cnt.dropped + BitVec.ofNat 32 ((locatedFrames s.cfg.val i).countP FrameResult.isDrop) ∧
    t.cnt.rxFrames = (if isFcRx i = true ∧ t.lastSts = 0x01#8 then s.cnt.rxFrames + 1#32 else s.cnt.rxFrames) ∧
    t.cnt.rxErrors = (if isFcRx i = true ∧ t.lastSts ∈ [0x90#8, 0x91#8, 0x92#8]
      then s.cnt.rxErrors + 1#32 else s.cnt.rxErrors) ∧
    t.cnt.cmdErrors = (if isRegRd i = false ∧ (t.lastSts = 0x81#8 ∨ t.lastSts = 0x82#8)
      then s.cnt.cmdErrors + 1#32 else s.cnt.cmdErrors)) ∧
  ∀ (s t : State) (opc : Byte) (n : Nat), s.fetch = .illegalOpcode opc n → step s = .next t →
    t.cnt = { s.cnt with cmdErrors := s.cnt.cmdErrors + 1#32 }

/-- R34: after a step that answered, `LAST_STS` is the status byte of the response just emitted, except that REG.RD leaves it
as it was; after reset it is 0x00. -/
def Obligations.LastStatusIsTheResponseStatus : Prop :=
  (∀ (s t : State) (i : Instr) (n : Nat), s.fetch = .command i n → step s = .next t →
    (isRegRd i = false → ∃ result, t.rspStream = s.rspStream ++ packet t.lastSts result) ∧
    (isRegRd i = true → t.lastSts = s.lastSts)) ∧
  (∀ (s t : State) (opc : Byte) (n : Nat), s.fetch = .illegalOpcode opc n → step s = .next t →
    t.rspStream = s.rspStream ++ packet t.lastSts []) ∧
  ∀ c : ValidConfig, (State.resetWith c).lastSts = 0x00#8

/-- R230: what an error leaves: the state as before, but for (a) `LAST_STS`, (b) `CNT_CMD_ERRORS` for command errors, (c) the
deframer and `CNT_RX_ERRORS` for FC.RX's errors, (d) `CNT_DROPPED` for PA.FRAME's drops; REG.RD's errors change no state; the
result is always empty. -/
def Obligations.ErrorsLeaveOnlyTheListedChanges : Prop :=
  (∀ (i : Instr) (s t : State), isRegRd i = false → exec i s = .next t → t.lastSts.getLsbD 7 = true →
    t.cmdStream = s.cmdStream ∧ t.cmdPos = s.cmdPos ∧ t.cfg = s.cfg ∧
    t.rspStream = s.rspStream ++ [t.lastSts, 0x00#8, 0x00#8, 0x00#8, 0x00#8] ∧
    (t.lastSts ∈ [0x81#8, 0x82#8] → t.rx = s.rx ∧ t.cnt = { s.cnt with cmdErrors := s.cnt.cmdErrors + 1#32 }) ∧
    (t.lastSts ∈ [0x90#8, 0x91#8, 0x92#8] → isFcRx i = true →
      t.rx = { state := if t.lastSts = 0x90#8 then .addr else .hunt, addr := s.rx.addr, buf := [] } ∧
      t.cnt = { s.cnt with rxErrors := s.cnt.rxErrors + 1#32 }) ∧
    (t.lastSts ∈ [0x90#8, 0x91#8, 0x92#8, 0xA0#8] → isFcRx i = false → t.rx = s.rx ∧ t.cnt = s.cnt) ∧
    (t.lastSts ∈ [0xB0#8, 0xB1#8] → t.rx = s.rx ∧ t.cnt = { s.cnt with dropped := s.cnt.dropped + 1#32 })) ∧
  (∀ (op : Bytes) (s t : State), exec (.regRd op) s = .next t → t = { s with rspStream := t.rspStream }) ∧
  ∀ (s : State) (opc : Byte) (n : Nat), s.fetch = .illegalOpcode opc n →
    step s = .next (commandError { s with cmdPos := s.cmdPos + n } 0x80#8)

/-- R18, R45, R201, R220: the response of every command but FC.RX and REG.RD depends only on its operand and the
configuration; PA.FRAME and PA.CAPT add the same counts whatever the state before. -/
def Obligations.ResponseDependsOnOperandAndConfiguration : Prop :=
  ∀ (i : Instr) (s s' t t' : State), isFcRx i = false → isRegRd i = false → s.cfg = s'.cfg →
    exec i s = .next t → exec i s' = .next t' →
    ∃ p, t.rspStream = s.rspStream ++ p ∧ t'.rspStream = s'.rspStream ++ p ∧ t.lastSts = t'.lastSts ∧
      (isPa i = true → t.rx = s.rx ∧ t.cnt.clean - s.cnt.clean = t'.cnt.clean - s'.cnt.clean ∧
        t.cnt.degraded - s.cnt.degraded = t'.cnt.degraded - s'.cnt.degraded ∧
        t.cnt.dropped - s.cnt.dropped = t'.cnt.dropped - s'.cnt.dropped)

/-- R43: an increment of a counter holding 0xFFFFFFFF leaves 0, and nothing else happens; one clause for each counter. -/
def Obligations.CountersWrap : Prop :=
  (∀ s : State, s.cnt.cmdErrors = 0xFFFFFFFF#32 →
    exec (.nop [0x00#8]) s = .next (answer { s with cnt := { s.cnt with cmdErrors := 0#32 } } 0x81#8 [])) ∧
  (∀ s : State, s.cnt.dropped = 0xFFFFFFFF#32 →
    exec (.paFrame []) s = .next (answer { s with cnt := { s.cnt with dropped := 0#32 } } 0xB0#8 [])) ∧
  (∀ (s : State) (op : Bytes) (r : Record), op.length ≤ s.cfg.val.maxOperand → decodeFrame s.cfg.val op 0 = .record r →
    (flagsClean r.flags = true → s.cnt.clean = 0xFFFFFFFF#32 →
      exec (.paFrame op) s = .next (answer { s with cnt := { s.cnt with clean := 0#32 } } 0x00#8 r.bytes)) ∧
    (flagsClean r.flags = false → s.cnt.degraded = 0xFFFFFFFF#32 →
      exec (.paFrame op) s = .next (answer { s with cnt := { s.cnt with degraded := 0#32 } } 0x00#8 r.bytes))) ∧
  (∀ s : State, s.rx.state = .data → s.cnt.rxFrames = 0xFFFFFFFF#32 →
    exec (.fcRx [0xC0#8]) s = .next (answer
      { s with rx := { s.rx with state := .addr, buf := [] },
               cnt := { s.cnt with rxFrames := 0#32 } } 0x01#8 (s.rx.addr :: s.rx.buf))) ∧
  ∀ s : State, s.rx.state = .esc → s.cnt.rxErrors = 0xFFFFFFFF#32 →
    exec (.fcRx [0xC0#8]) s = .next (answer
      { s with rx := { s.rx with state := .addr, buf := [] },
               cnt := { s.cnt with rxErrors := 0#32 } } 0x90#8 [])

/-- R81: a command whose `LEN` is outside its legal range (R70), or above `MAX_OPERAND`, answers BAD_LENGTH whatever its
operand bytes are; a command whose `LEN` is legal never does. -/
def Obligations.IllegalLengthIsBadLength : Prop :=
  (∀ (i : Instr) (s : State), ¬legalLen s.cfg.val i → isRegRd i = false → exec i s = .next (commandError s 0x81#8)) ∧
  (∀ (op : Bytes) (s : State), ¬legalLen s.cfg.val (.regRd op) →
    exec (.regRd op) s = .next { s with rspStream := s.rspStream ++ packet 0x81#8 [] }) ∧
  ∀ (i : Instr) (s t : State), legalLen s.cfg.val i → exec i s = .next t →
    ∃ sts result, sts ≠ 0x81#8 ∧ t.rspStream = s.rspStream ++ packet sts result

/-! ### FrameCodec -/

/-- R92: ESCAPE replaces every 0xC0 by DB DC and every 0xDB by DB DD, and passes all other bytes. R94, R82: FC.ESC completes
with it for every operand of legal length, writes only `LAST_STS`, and its result is as long as R82 says. -/
def Obligations.EscCompletes : Prop :=
  escape [] = [] ∧
  (∀ (b : Byte) (d : Bytes), escape (b :: d) =
    (if b = 0xC0#8 then [0xDB#8, 0xDC#8] else if b = 0xDB#8 then [0xDB#8, 0xDD#8] else [b]) ++ escape d) ∧
  ∀ (s : State) (op : Bytes), op.length ≤ s.cfg.val.maxOperand →
    exec (.fcEsc op) s = .next (answer s 0x00#8 (escape op)) ∧
    (escape op).length = op.length + op.count 0xC0#8 + op.count 0xDB#8

/-- R93, R95: FC.UNESC completes for every operand of legal length: with the unescaped bytes, or with INCOMPLETE_ESCAPE or
INVALID_ESCAPE, one of the three; it writes only `LAST_STS` in every case. Of bytes that FC.ESC made it answers the originals.
-/
def Obligations.UnescCompletes : Prop :=
  ∀ s : State,
    (∀ op r, op.length ≤ s.cfg.val.maxOperand → unescape op = .ok r →
      exec (.fcUnesc op) s = .next (answer s 0x00#8 r) ∧ r.length ≤ op.length) ∧
    (∀ op, op.length ≤ s.cfg.val.maxOperand → unescape op = .error .incompleteEscape →
      exec (.fcUnesc op) s = .next (answer s 0x90#8 [])) ∧
    (∀ op, op.length ≤ s.cfg.val.maxOperand → unescape op = .error .invalidEscape →
      exec (.fcUnesc op) s = .next (answer s 0x91#8 [])) ∧
    (∀ op, (∃ r, unescape op = .ok r) ∨ unescape op = .error .incompleteEscape ∨ unescape op = .error .invalidEscape) ∧
    ∀ d, (escape d).length ≤ s.cfg.val.maxOperand → exec (.fcUnesc (escape d)) s = .next (answer s 0x00#8 d)

/-- R93: behind any bytes that unescape without error, bare 0xC0 included, UNESCAPE goes on with the rest on its own; there a
last ESC is INCOMPLETE_ESCAPE, and an ESC followed by a byte other than 0xDC and 0xDD is INVALID_ESCAPE whatever comes later.
Bytes without an ESC pass through. -/
def Obligations.UnescapeReportsTheFirstError : Prop :=
  (∀ pre r rest : Bytes, unescape pre = .ok r → unescape (pre ++ rest) = (unescape rest).map (r ++ ·)) ∧
  (∀ pre r : Bytes, unescape pre = .ok r → unescape (pre ++ [0xDB#8]) = .error .incompleteEscape) ∧
  (∀ (pre r rest : Bytes) (x : Byte), unescape pre = .ok r → x ≠ 0xDC#8 → x ≠ 0xDD#8 →
    unescape (pre ++ 0xDB#8 :: x :: rest) = .error .invalidEscape) ∧
  ∀ d : Bytes, 0xDB#8 ∉ d → unescape d = .ok d

/-- R105 (a law the spec derives from R92 and R93): UNESCAPE inverts ESCAPE. -/
def Obligations.UnescapeInvertsEscape : Prop := ∀ d : Bytes, unescape (escape d) = .ok d

/-- R106 (a law the spec derives from R92): ESCAPE's output holds no 0xC0, and every 0xDB in it is immediately followed by
0xDC or 0xDD. -/
def Obligations.EscapeIsMinimal : Prop :=
  ∀ d : Bytes, 0xC0#8 ∉ escape d ∧
    ∀ k, (escape d)[k]? = some 0xDB#8 → (escape d)[k + 1]? = some 0xDC#8 ∨ (escape d)[k + 1]? = some 0xDD#8

/-- R74, R96: FC.FRAME builds the frame with the address as it is, and refuses the address 0xC0. The result is R96's, one byte
longer than R82's list says (notes/assumptions/12.md). -/
def Obligations.FrameCompletes : Prop :=
  ∀ (s : State) (a : Byte) (d : Bytes), d.length + 1 ≤ s.cfg.val.maxOperand →
    (a ≠ 0xC0#8 → exec (.fcFrame (a :: d)) s = .next (answer s 0x00#8 (0xC0#8 :: a :: (escape d ++ [0xC0#8])))) ∧
    (a = 0xC0#8 → exec (.fcFrame (a :: d)) s = .next (commandError s 0x82#8))

/-- R98, R99: FC.RX in HUNT and in ADDR. -/
def Obligations.DeframerOutsideAFrame : Prop :=
  (∀ (s : State) (b : Byte), s.rx.state = .hunt →
    exec (.fcRx [b]) s = .next (answer
      { s with rx := if b = 0xC0#8 then { s.rx with state := .addr } else s.rx } 0x00#8 [])) ∧
  ∀ (s : State) (b : Byte), s.rx.state = .addr →
    exec (.fcRx [b]) s = .next (answer
      { s with rx := if b = 0xC0#8 then s.rx else { state := .data, addr := b, buf := [] } } 0x00#8 [])

/-- R100, R101, R102: FC.RX in DATA and in ESC, where a payload byte is kept while `RX.BUF` is shorter than `RXBUF_MAX` and
else discards the frame. -/
def Obligations.DeframerInsideAFrame : Prop :=
  (∀ (s : State) (b : Byte), s.rx.state = .data →
    (b = 0xC0#8 → exec (.fcRx [b]) s = .next (answer
      { s with rx := { s.rx with state := .addr, buf := [] },
               cnt := { s.cnt with rxFrames := s.cnt.rxFrames + 1#32 } } 0x01#8 (s.rx.addr :: s.rx.buf))) ∧
    (b = 0xDB#8 → exec (.fcRx [b]) s = .next (answer { s with rx := { s.rx with state := .esc } } 0x00#8 []))) ∧
  (∀ (s : State) (b : Byte), s.rx.state = .esc →
    (b = 0xC0#8 → exec (.fcRx [b]) s = .next (answer
      { s with rx := { s.rx with state := .addr, buf := [] },
               cnt := { s.cnt with rxErrors := s.cnt.rxErrors + 1#32 } } 0x90#8 [])) ∧
    (b ≠ 0xC0#8 → b ≠ 0xDC#8 → b ≠ 0xDD#8 → exec (.fcRx [b]) s = .next (answer
      { s with rx := { s.rx with state := .hunt, buf := [] },
               cnt := { s.cnt with rxErrors := s.cnt.rxErrors + 1#32 } } 0x91#8 []))) ∧
  ∀ (s : State) (b v : Byte),
    (s.rx.state = .data ∧ b ≠ 0xC0#8 ∧ b ≠ 0xDB#8 ∧ v = b) ∨ (s.rx.state = .esc ∧ b = 0xDC#8 ∧ v = 0xC0#8) ∨
      (s.rx.state = .esc ∧ b = 0xDD#8 ∧ v = 0xDB#8) →
    (s.rx.buf.length < s.cfg.val.rxbufMax → exec (.fcRx [b]) s = .next (answer
      { s with rx := { s.rx with state := .data, buf := s.rx.buf ++ [v] } } 0x00#8 [])) ∧
    (s.cfg.val.rxbufMax ≤ s.rx.buf.length → exec (.fcRx [b]) s = .next (answer
      { s with rx := { s.rx with state := .hunt, buf := [] },
               cnt := { s.cnt with rxErrors := s.cnt.rxErrors + 1#32 } } 0x92#8 []))

/-- R107 (a law the spec derives from R96 and R98 to R102): the frame FC.FRAME builds, fed byte by byte from HUNT or ADDR, is
delivered by its last byte alone, with the address and the payload it was built from, and leaves the deframer in ADDR with an
empty buffer. -/
def Obligations.FrameRoundTripsThroughTheDeframer : Prop :=
  ∀ (s : State) (a : Byte) (d : Bytes), a ≠ 0xC0#8 → d.length ≤ s.cfg.val.rxbufMax → d.length + 1 ≤ s.cfg.val.maxOperand →
    s.rx.state = .hunt ∨ s.rx.state = .addr →
    ∃ (f : Bytes) (u t : State), exec (.fcFrame (a :: d)) s = .next (answer s 0x00#8 f) ∧
      feed f.dropLast s = .next u ∧
      u.rspStream = s.rspStream ++ (List.replicate (f.length - 1) (packet 0x00#8 [])).flatten ∧
      feed f s = .next t ∧ t.rspStream = u.rspStream ++ packet 0x01#8 (a :: d) ∧
      t.rx.state = .addr ∧ t.rx.buf = []

/-! ### DelimiterLocator -/

/-- R117: FIND answers the least match at or after `start` that lies wholly inside the buffer, and nothing where there is
none. -/
def Obligations.FindMarkerIsTheLeastMatch : Prop :=
  ∀ (buf : Bytes) (start : Nat),
    (∃ i, findMarker buf start = some i ∧ start ≤ i ∧ i + 4 ≤ buf.length ∧ slice i (i + 4) buf = marker ∧
      ∀ j, start ≤ j → j < i → slice j (j + 4) buf ≠ marker) ∨
    (findMarker buf start = none ∧ ∀ j, start ≤ j → slice j (j + 4) buf ≠ marker)

/-- R90, R118: DL.FIND completes for every operand of legal length: it answers the offsets that FIND gives, searched for first
from 0 and then from one byte after each match start, and the sentinel FF FF FF FF. -/
def Obligations.FindCompletes : Prop :=
  ∀ (s : State) (op : Bytes), op.length ≤ s.cfg.val.maxOperand →
    ∃ offs : List Nat,
      exec (.dlFind op) s = .next (answer s 0x00#8
        (offs.flatMap (fun o => u32be (BitVec.ofNat 32 o)) ++ [0xFF#8, 0xFF#8, 0xFF#8, 0xFF#8])) ∧
      offs[0]? = findMarker op 0 ∧ ∀ k, offs[k + 1]? = offs[k]?.bind fun o => findMarker op (o + 1)

/-- R120 (a law the spec derives from R117 to R119): the entries of LOCATE before the sentinel grow by at least 4 from one to
the next; the last entry is −1, and no other is negative. -/
def Obligations.BoundaryListIsIncreasing : Prop :=
  ∀ buf : Bytes, ∃ offs : List Nat, locate buf = offs.map Int.ofNat ++ [-1] ∧ offs.Pairwise fun a b => a + 4 ≤ b

/-- R122 (a law the spec derives from R119 and R121): every frame extent lies inside the buffer, starts with a whole marker
and is at least 4 bytes long. -/
def Obligations.FrameExtentsHoldAMarker : Prop :=
  ∀ (buf : Bytes) (oe : Nat × Nat), oe ∈ frameExtents buf.length (markerOffsets buf) →
    oe.1 + 4 ≤ oe.2 ∧ oe.2 ≤ buf.length ∧ slice oe.1 (oe.1 + 4) buf = marker

/-! ### Descrambler -/

/-- R76, R128, R129: DS.DESC completes for every operand of legal length; DS.DESCS for every state of at most 0x1FF, and
refuses a wider one with BAD_OPERAND. The result is as long as the block. -/
def Obligations.DescrambleCompletes : Prop :=
  (∀ (s : State) (op : Bytes), op.length ≤ s.cfg.val.maxOperand →
    exec (.dsDesc op) s = .next (answer s 0x00#8 (descramble op 0x1F0#9)) ∧ (descramble op 0x1F0#9).length = op.length) ∧
  ∀ (s : State) (b1 b0 : Byte) (blk : Bytes), blk.length + 2 ≤ s.cfg.val.maxOperand →
    (b1 ≤ 0x01#8 → exec (.dsDescs (b1 :: b0 :: blk)) s =
      .next (answer s 0x00#8 (descramble blk (b1.setWidth 1 ++ b0)))) ∧
    (0x01#8 < b1 → exec (.dsDescs (b1 :: b0 :: blk)) s = .next (commandError s 0x82#8))

/-- R132 (a law the spec derives from R127): the descrambler is the feed-forward filter `1 + x^4 + x^9` over the received bit
stream, the initial state standing in for the nine bits before the block. -/
def Obligations.DescramblerClosedForm : Prop :=
  ∀ (blk : Bytes) (s0 : BitVec 9) (k : Nat), k < 8 * blk.length →
    streamBit (descramble blk s0) k =
      (streamBit blk k ^^ (if 4 ≤ k then streamBit blk (k - 4) else false)
        ^^ (if 9 ≤ k then streamBit blk (k - 9) else s0.getLsbD k))

/-- R133 (a law the spec derives from R132): from bit 9 on the output does not depend on the initial state, each of the first
nine bits does, and one flipped received bit `k` flips exactly the output bits `k`, `k + 4` and `k + 9` inside the block. -/
def Obligations.DescramblerSelfSynchronises : Prop :=
  (∀ (blk : Bytes) (s0 s1 : BitVec 9) (k : Nat), 9 ≤ k →
    streamBit (descramble blk s0) k = streamBit (descramble blk s1) k) ∧
  (∀ (blk : Bytes) (s0 : BitVec 9) (k : Nat), k < 9 → k < 8 * blk.length →
    streamBit (descramble blk (s0 ^^^ (1#9 <<< k))) k = !streamBit (descramble blk s0) k) ∧
  ∀ (blk : Bytes) (s0 : BitVec 9) (k j : Nat), k < 8 * blk.length → j < 8 * blk.length →
    streamBit (descramble (flipBit blk k) s0) j =
      (streamBit (descramble blk s0) j ^^ decide (j = k ∨ j = k + 4 ∨ j = k + 9))

/-- R134 (a law the spec derives from R127 and R131): SCRAMBLE and DESCRAMBLE from the same state invert each other, and both
keep the length. -/
def Obligations.ScrambleAndDescrambleInvert : Prop :=
  ∀ (blk : Bytes) (s0 : BitVec 9),
    descramble (scramble blk s0) s0 = blk ∧ scramble (descramble blk s0) s0 = blk ∧
    (descramble blk s0).length = blk.length ∧ (scramble blk s0).length = blk.length

/-- R136 (a law the spec derives from R127): the fixed points and constants of the descrambler. -/
def Obligations.DescramblerFixedPoints : Prop :=
  descramble [0xFF#8] 0x1F0#9 = [0xFF#8] ∧ scramblerFinal 0x1F0#9 (unpackBits [0xFF#8]) = 0x1F0#9 ∧
  (∀ n, descramble (List.replicate n 0xFF#8) 0x1F0#9 = List.replicate n 0xFF#8) ∧
  descramble [0x00#8] 0x1F0#9 = [0x0F#8] ∧
  (∀ n, descramble (List.replicate n 0x00#8) 0x000#9 = List.replicate n 0x00#8) ∧
  ∀ b : Byte, descramble [b] 0x1F0#9 = [b] ↔ 0xF0#8 ≤ b

/-! ### BlockFEC -/

/-- R141, R142, R143: the bytes under `⊕` and `⊗` are a field: the laws of multiplication, the inverse, and the agreement of
`GF_MUL` and the inverse with the tables `GF_EXP` and `GF_LOG`. That the tables are to the base 0x02 in every configuration,
as R142 says and R37 does not, is the model's choice (notes/assumptions/11.md). -/
def Obligations.BytesAreAField : Prop :=
  (∀ a b : Byte, gfMul a b = gfMul b a) ∧
  (∀ a b c : Byte, gfMul (gfMul a b) c = gfMul a (gfMul b c)) ∧
  (∀ a b c : Byte, gfMul a (b ^^^ c) = gfMul a b ^^^ gfMul a c) ∧
  (∀ a : Byte, gfMul a 1#8 = a ∧ gfMul a 0#8 = 0#8) ∧
  (∀ a : Byte, a ≠ 0#8 → gfMul a (gfInv a) = 1#8 ∧ gfInv a = gfExp (255 - gfLog a)) ∧
  ∀ a b : Byte, a ≠ 0#8 → b ≠ 0#8 → gfMul a b = gfExp (gfLog a + gfLog b)

/-- R166 (a law the spec derives from R148): a single error `e` at position `i` of a codeword gives `S_j = e ⊗ X_i^(RS_FCR +
j)`; with `RS_FCR = 0` this is `S_0 = e` and `S_1 = e ⊗ α^(n−1−i)`; with `RS_GEN = 0x02` besides, `e = 0x10` at `i = 5` of 15
bytes gives 0x10 and 0x87. -/
def Obligations.SingleErrorSyndromes : Prop :=
  (∀ (c : ValidConfig) (w : Bytes) (t i j : Nat) (e : Byte), isCodeword c.val w t = true → i < w.length → j < t →
    syndrome c.val (withError w i e) j = gfMul e (gfPow (locator c.val w.length i) (c.val.rsFcr + j))) ∧
  (∀ (c : ValidConfig) (w : Bytes) (t i : Nat) (e : Byte), c.val.rsFcr = 0 → 2 ≤ t → isCodeword c.val w t = true →
    i < w.length → syndrome c.val (withError w i e) 0 = e ∧
      syndrome c.val (withError w i e) 1 = gfMul e (alphaPow c.val (w.length - 1 - i))) ∧
  ∀ (c : ValidConfig) (w : Bytes), c.val.rsFcr = 0 → c.val.rsGen = 0x02#8 → isCodeword c.val w 2 = true → w.length = 15 →
    syndromes c.val (withError w 5 0x10#8) 2 = [0x10#8, 0x87#8]

/-- R146, R150: RS_ENCODE keeps the message in front, adds `t` bytes, and gives a codeword. -/
def Obligations.EncodedMessageIsACodeword : Prop :=
  ∀ (c : ValidConfig) (m : Bytes) (t : Nat),
    (rsEncode c.val m t).take m.length = m ∧ (rsEncode c.val m t).length = m.length + t ∧
    isCodeword c.val (rsEncode c.val m t) t = true

/-- R151, R152, R154: whatever the decoder returns is a codeword as long as the block, within the radius, with its distance to
the block as the count. -/
def Obligations.DecoderIsSound : Prop :=
  ∀ (c : Config) (r w : Bytes) (t d : Nat), bdDecode c r t = some (w, d) →
    isCodeword c w t = true ∧ w.length = r.length ∧ d = blockDist r w ∧ d ≤ t / 2

/-- R151, R162 (R162 is a law the spec derives from R149 and R151): every block of at most 255 bytes that differs from a
codeword in at most `t/2` bytes, one or several, at any positions, decodes to that codeword, with the number of wrong bytes as
its count. So up to 8 wrong bytes of FEC_P's blocks and 1 of FEC_H's are corrected, and of a block RS_ENCODE made the message
comes back. -/
def Obligations.ErrorsUpToTheRadiusAreCorrected : Prop :=
  (∀ (c : ValidConfig) (r w : Bytes) (t : Nat), w.length ≤ 255 → isCodeword c.val w t = true → r.length = w.length →
    blockDist r w ≤ t / 2 → bdDecode c.val r t = some (w, blockDist r w)) ∧
  ∀ (c : ValidConfig) (m r : Bytes) (t : Nat), (t = 2 ∧ m.length = 13) ∨ (t = 16 ∧ m.length ≤ 239) →
    r.length = m.length + t → blockDist r (rsEncode c.val m t) ≤ t / 2 →
    ∃ w, bdDecode c.val r t = some (w, blockDist r (rsEncode c.val m t)) ∧ w.take m.length = m

/-- R151 for FEC_H: the header decoder is the strict bounded-distance decoder: it returns the codeword within distance 1 and
the distance if there is one, and fails if there is none. -/
def Obligations.HeaderDecoderIsBoundedDistance : Prop :=
  ∀ (c : ValidConfig) (r : Bytes), r.length = 15 →
    (∀ w : Bytes, w.length = 15 → isCodeword c.val w 2 = true → blockDist r w ≤ 1 → bdDecode c.val r 2 = some (w, blockDist r w)) ∧
    ((∀ w : Bytes, w.length = 15 → isCodeword c.val w 2 = true → 1 < blockDist r w) → bdDecode c.val r 2 = none)

/-- R153, R156 to R161: the four FEC commands complete for every block of legal length. A check answers 01 exactly where the
decode succeeds; a decode answers the systematic bytes and the count, or UNCORRECTABLE_BLOCK; all write only `LAST_STS`. -/
def Obligations.FecCompletes : Prop :=
  (∀ (s : State) (r : Bytes), r.length = 15 → r.length ≤ s.cfg.val.maxOperand →
    exec (.fecHchk r) s = .next (answer s 0x00#8 [if bdDecode s.cfg.val r 2 = none then 0x00#8 else 0x01#8]) ∧
    (∀ w d, bdDecode s.cfg.val r 2 = some (w, d) →
      exec (.fecHdec r) s = .next (answer s 0x00#8 (w.take 13 ++ [BitVec.ofNat 8 d]))) ∧
    (bdDecode s.cfg.val r 2 = none → exec (.fecHdec r) s = .next (answer s 0xA0#8 []))) ∧
  ∀ (s : State) (r : Bytes), 16 ≤ r.length → r.length ≤ 255 → r.length ≤ s.cfg.val.maxOperand →
    exec (.fecPchk r) s = .next (answer s 0x00#8 [if bdDecode s.cfg.val r 16 = none then 0x00#8 else 0x01#8]) ∧
    (∀ w d, bdDecode s.cfg.val r 16 = some (w, d) →
      exec (.fecPdec r) s = .next (answer s 0x00#8 (w.take (r.length - 16) ++ [BitVec.ofNat 8 d]))) ∧
    (bdDecode s.cfg.val r 16 = none → exec (.fecPdec r) s = .next (answer s 0xA0#8 []))

/-! ### ChecksumRecovery and CRC -/

/-- R174 to R178, R182, R183: CR.REC, CRC.CALC and CRC.REF complete for every operand of legal length and write only
`LAST_STS`; CR.REC puts the four nibbles high to low, and CRC.REF is CRC.CALC of the prefix and the operand. R176: CRC16
starts from 0xFFFF, takes each byte into the register's high end most significant bit first, or reflected into its low end
with the reversed polynomial, and ends with `CRC_XOROUT`. R180 (derived by the spec from R176): its check values in the
decided variant. -/
def Obligations.ChecksumCommandsComplete : Prop :=
  (∀ (s : State) (e0 e1 e2 e3 : Byte), 4 ≤ s.cfg.val.maxOperand →
    exec (.crRec [e0, e1, e2, e3]) s = .next (answer s 0x00#8
      [nibbleAt s.cfg.val.nibbleTable e0 ++ nibbleAt s.cfg.val.nibbleTable e1,
       nibbleAt s.cfg.val.nibbleTable e2 ++ nibbleAt s.cfg.val.nibbleTable e3])) ∧
  (∀ (s : State) (op : Bytes), op.length ≤ s.cfg.val.maxOperand →
    exec (.crcCalc op) s = .next (answer s 0x00#8
      [(crc16 s.cfg.val op).extractLsb' 8 8, (crc16 s.cfg.val op).extractLsb' 0 8])) ∧
  (∀ (s : State) (op : Bytes), op.length ≤ s.cfg.val.maxOperand →
    exec (.crcRef op) s = .next (answer s 0x00#8
      [(crc16 s.cfg.val (s.cfg.val.crcPrefix.toList ++ op)).extractLsb' 8 8,
       (crc16 s.cfg.val (s.cfg.val.crcPrefix.toList ++ op)).extractLsb' 0 8])) ∧
  (∀ c : Config, crc16 c [] = 0xFFFF#16 ^^^ c.crcXorout) ∧
  (∀ (c : Config) (d : Bytes) (b : Byte), c.crcReflect = false →
    crc16 c (d ++ [b]) ^^^ c.crcXorout =
      (fun w : BitVec 16 => if w.getLsbD 15 then (w <<< 1) ^^^ c.crcPoly else w <<< 1)^[8]
        ((crc16 c d ^^^ c.crcXorout) ^^^ (b.setWidth 16 <<< 8))) ∧
  (∀ (c : Config) (d : Bytes) (b : Byte), c.crcReflect = true →
    crc16 c (d ++ [b]) ^^^ c.crcXorout =
      (fun w : BitVec 16 => if w.getLsbD 0 then (w >>> 1) ^^^ c.crcPoly.reverse else w >>> 1)^[8]
        ((crc16 c d ^^^ c.crcXorout) ^^^ b.setWidth 16)) ∧
  ∀ c : Config, c.crcPoly = 0x1021#16 → c.crcReflect = false → c.crcXorout = 0x0000#16 →
    crc16 c [] = 0xFFFF#16 ∧ crc16 c [0x00#8] = 0xE1F0#16 ∧ crc16 c [0xFF#8] = 0xFF00#16 ∧
    crc16 c [0xC0#8, 0xDB#8] = 0x714D#16 ∧
    crc16 c [0x31#8, 0x32#8, 0x33#8, 0x34#8, 0x35#8, 0x36#8, 0x37#8, 0x38#8, 0x39#8] = 0x29B1#16 ∧
    crc16 c ((List.range 16).map (BitVec.ofNat 8)) = 0x3B37#16

/-- R181 (a law the spec derives from R171 and R174): RECOVER gives back every checksum from its encoding under law L1, and
under law L2 still does when one bit is flipped in each of the four bytes. -/
def Obligations.RecoverInvertsEncodeChecksum : Prop :=
  ∀ (c : Config) (enc : BitVec 4 → Byte), lawL1 c.nibbleTable enc →
    (∀ v : BitVec 16, recover c (encodeChecksum enc v) = v) ∧
    (lawL2 c.nibbleTable enc → ∀ (v : BitVec 16) (i0 i1 i2 i3 : Nat), i0 < 8 → i1 < 8 → i2 < 8 → i3 < 8 →
      recover c (List.zipWith (fun b i => b ^^^ (1#8 <<< i)) (encodeChecksum enc v) [i0, i1, i2, i3]) = v)

/-! ### PacketAssembler -/

/-- R189, R197, R198: PA.FRAME completes for every body: shorter than 36 bytes or longer than 275 it is dropped, with its
reason and `CNT_DROPPED`; else its record is the result and counts as clean or degraded. -/
def Obligations.PaFrameCompletes : Prop :=
  ∀ (s : State) (op : Bytes), op.length ≤ s.cfg.val.maxOperand →
    (op.length < 36 → exec (.paFrame op) s =
      .next (answer { s with cnt := { s.cnt with dropped := s.cnt.dropped + 1#32 } } 0xB0#8 [])) ∧
    (275 < op.length → exec (.paFrame op) s =
      .next (answer { s with cnt := { s.cnt with dropped := s.cnt.dropped + 1#32 } } 0xB1#8 [])) ∧
    (36 ≤ op.length → op.length ≤ 275 → exec (.paFrame op) s =
      .next (answer
        { s with cnt := if (decodeBody s.cfg.val op 0).flags &&& 0x07#8 = 0x00#8
                        then { s.cnt with clean := s.cnt.clean + 1#32 }
                        else { s.cnt with degraded := s.cnt.degraded + 1#32 } }
        0x00#8 (decodeBody s.cfg.val op 0).bytes))

/-- R199, R200: PA.CAPT completes for every capture: the counters grow once by its totals, the result is the record count, the
records, the three counts and the drop log in capture order, and every located frame is exactly one of clean, degraded and
dropped; a capture with no marker gives sixteen zero bytes. -/
def Obligations.PaCaptCompletes : Prop :=
  ∀ (s : State) (op : Bytes), op.length ≤ s.cfg.val.maxOperand →
    ∃ (fs : List (Nat × FrameResult)) (nc nd nx : Nat),
      fs = (frameExtents op.length (markerOffsets op)).map
        (fun oe => (oe.1, decodeFrame s.cfg.val (slice (oe.1 + 4) oe.2 op) oe.1)) ∧
      nc = fs.countP (fun f => f.2.isClean) ∧ nd = fs.countP (fun f => f.2.isDegraded) ∧
      nx = fs.countP (fun f => f.2.isDrop) ∧ nc + nd + nx = (markerOffsets op).length ∧
      exec (.paCapt op) s = .next (answer
        { s with cnt := { s.cnt with
            clean := s.cnt.clean + BitVec.ofNat 32 nc
            degraded := s.cnt.degraded + BitVec.ofNat 32 nd
            dropped := s.cnt.dropped + BitVec.ofNat 32 nx } }
        0x00#8
        (u32be (BitVec.ofNat 32 (nc + nd)) ++ fs.flatMap (fun f => f.2.recordBytes)
          ++ u32be (BitVec.ofNat 32 nc) ++ u32be (BitVec.ofNat 32 nd) ++ u32be (BitVec.ofNat 32 nx)
          ++ fs.flatMap (fun f => f.2.dropEntry f.1))) ∧
      (markerOffsets op = [] → exec (.paCapt op) s = .next (answer s 0x00#8 (List.replicate 16 0x00#8)))

/-- R195: the record's bytes: `47 + P` of them, every field at its offset; `FLAGS[3]` is the complement of `FLAGS[2]` and the
upper bits are 0; the counts are the decoder's, within their ranges, or 0xFF. HEADER and PAYLOAD are the corrected bytes,
descrambled from 0x1F0; of an uncorrectable region, the raw bytes, descrambled only if `DESCRAMBLE_UNCORRECTED`. -/
def Obligations.RecordLayout : Prop :=
  ∀ (c : ValidConfig) (body : Bytes) (off : Nat), 36 ≤ body.length → body.length ≤ 275 →
    let r := decodeBody c.val body off
    let p := body.length - 36
    let f := bodyFields c.val.sparePos p body
    r.bytes.length = 47 + p ∧
    (r.bytes[0]? = some r.flags ∧ r.flags.getLsbD 0 = (bdDecode c.val (f.hr ++ f.hp) 2).isNone ∧
      r.flags.getLsbD 1 = (bdDecode c.val (f.pr ++ f.pp) 16).isNone ∧
      r.flags.getLsbD 2 = (recover c.val f.ec != refCrc c.val r.payload.bytes) ∧
      r.flags.getLsbD 3 = (!r.flags.getLsbD 2) ∧ r.flags.extractLsb' 4 4 = 0#4) ∧
    (∃ h, r.bytes[1]? = some h ∧ (h = 0x00#8 ∨ h = 0x01#8 ∨ h = 0xFF#8) ∧ (h = 0xFF#8 ↔ r.flags.getLsbD 0 = true) ∧
      ∀ w d, bdDecode c.val (f.hr ++ f.hp) 2 = some (w, d) → h = BitVec.ofNat 8 d ∧
        r.header.bytes = descramble (w.take 13) 0x1F0#9) ∧
    (∃ h, r.bytes[2]? = some h ∧ (h ≤ 0x08#8 ∨ h = 0xFF#8) ∧ (h = 0xFF#8 ↔ r.flags.getLsbD 1 = true) ∧
      ∀ w d, bdDecode c.val (f.pr ++ f.pp) 16 = some (w, d) → h = BitVec.ofNat 8 d ∧
        r.payload.bytes = descramble (w.take p) 0x1F0#9) ∧
    (bdDecode c.val (f.hr ++ f.hp) 2 = none →
      r.header.bytes = if c.val.descrambleUncorrected then descramble f.hr 0x1F0#9 else f.hr) ∧
    (bdDecode c.val (f.pr ++ f.pp) 16 = none →
      r.payload.bytes = if c.val.descrambleUncorrected then descramble f.pr 0x1F0#9 else f.pr) ∧
    r.bytes[3]? = some (BitVec.ofNat 8 p) ∧
    slice 4 8 r.bytes = u32be (BitVec.ofNat 32 off) ∧
    slice 8 21 r.bytes = r.header.bytes ∧ slice 21 23 r.bytes = f.hp ∧ slice 23 39 r.bytes = f.pp ∧
    slice 39 43 r.bytes = f.ec ∧ slice 43 45 r.bytes = u16be (recover c.val f.ec) ∧
    slice 45 47 r.bytes = u16be (refCrc c.val r.payload.bytes) ∧ r.bytes.drop 47 = r.payload.bytes

/-- R188, R193, I11: the spare byte is never read; the header's part of a record depends on the header region alone and the
payload's part on the payload region alone. -/
def Obligations.RegionsAreIndependent : Prop :=
  (∀ (c : Config) (body body' : Bytes) (off : Nat), body.length = body'.length →
    (∀ k, k ≠ spareIndex c body → body[k]? = body'[k]?) → decodeFrame c body off = decodeFrame c body' off) ∧
  ∀ (c : Config) (body body' : Bytes) (off : Nat), body.length = body'.length → 36 ≤ body.length → body.length ≤ 275 →
    let b := leadShift c.sparePos
    let p := body.length - 36
    (slice b (b + 15) body = slice b (b + 15) body' →
      (decodeBody c body off).header = (decodeBody c body' off).header ∧
      (decodeBody c body off).flags.getLsbD 0 = (decodeBody c body' off).flags.getLsbD 0) ∧
    (slice (b + 15) (b + 31 + p) body = slice (b + 15) (b + 31 + p) body' →
      (decodeBody c body off).payload = (decodeBody c body' off).payload ∧
      (decodeBody c body off).flags.getLsbD 1 = (decodeBody c body' off).flags.getLsbD 1) ∧
    (slice (b + 15) (b + 35 + p) body = slice (b + 15) (b + 35 + p) body' →
      (decodeBody c body off).flags.getLsbD 2 = (decodeBody c body' off).flags.getLsbD 2)

/-- R187, R200, R201, R209: in a capture of marked bodies, where neither the bytes before the first marker nor any body holds
a marker, PA.CAPT's frames are exactly the bodies, each decoded on its own at its own offset. -/
def Obligations.CaptureOfMarkedBodies : Prop :=
  ∀ (c : Config) (lead : Bytes) (bodies : List Bytes), markerOffsets lead = [] → (∀ b ∈ bodies, markerOffsets b = []) →
    captureFrames c (lead ++ markedBodies bodies) = placedBodies c lead.length bodies

/-- R190 to R192, R206: a body built from a header of 13 bytes and a payload of at most 239 decodes to a clean record that
holds them again, with no correction. -/
def Obligations.BuiltBodyDecodesClean : Prop :=
  ∀ (c : ValidConfig) (enc : BitVec 4 → Byte) (h p : Bytes) (spare : Byte) (off : Nat),
    lawL1 c.val.nibbleTable enc → h.length = 13 → p.length ≤ 239 →
    ∃ r, decodeFrame c.val (buildBody c.val enc h p spare) off = .record r ∧
      r.flags = 0x08#8 ∧ r.header = { bytes := h, count := some 0 } ∧ r.payload = { bytes := p, count := some 0 } ∧
      r.plen = p.length ∧ r.offset = off ∧ r.rxCrc = refCrc c.val p ∧ r.refCrc = refCrc c.val p

/-- R207 (a law the spec derives from R191 and R162): a built body that arrives with at most 8 wrong bytes in its payload and
payload parity, at most one in its header and header parity, and its encoded checksum whole, decodes to a clean record with
the original header and payload; `PCC` and `HCC` are the numbers of wrong bytes. -/
def Obligations.WrongBytesWithinTheRadiusStayClean : Prop :=
  ∀ (c : ValidConfig) (enc : BitVec 4 → Byte) (h p body : Bytes) (spare : Byte) (off : Nat),
    lawL1 c.val.nibbleTable enc → h.length = 13 → p.length ≤ 239 →
    let sent := buildBody c.val enc h p spare
    let b := leadShift c.val.sparePos
    let hErr := blockDist (slice b (b + 15) body) (slice b (b + 15) sent)
    let pErr := blockDist (slice (b + 15) (b + 31 + p.length) body) (slice (b + 15) (b + 31 + p.length) sent)
    body.length = sent.length → hErr ≤ 1 → pErr ≤ 8 →
    slice (b + 31 + p.length) (b + 35 + p.length) body = slice (b + 31 + p.length) (b + 35 + p.length) sent →
    ∃ r, decodeFrame c.val body off = .record r ∧ r.flags = 0x08#8 ∧
      r.header = { bytes := h, count := some hErr } ∧ r.payload = { bytes := p, count := some pErr }

/-- R205 (a law the spec derives from R162, R134 and R181): a capture of three marked, built frames, none of which holds a
marker, gives three clean records with the original headers and payloads, and no drop. -/
def Obligations.ThreeBuiltFramesDecode : Prop :=
  ∀ (s : State) (enc : BitVec 4 → Byte) (h1 p1 h2 p2 h3 p3 : Bytes) (x1 x2 x3 : Byte),
    lawL1 s.cfg.val.nibbleTable enc →
    h1.length = 13 → h2.length = 13 → h3.length = 13 → p1.length ≤ 239 → p2.length ≤ 239 → p3.length ≤ 239 →
    let f1 := buildBody s.cfg.val enc h1 p1 x1
    let f2 := buildBody s.cfg.val enc h2 p2 x2
    let f3 := buildBody s.cfg.val enc h3 p3 x3
    let cap := marker ++ f1 ++ marker ++ f2 ++ marker ++ f3
    markerOffsets f1 = [] → markerOffsets f2 = [] → markerOffsets f3 = [] → cap.length ≤ s.cfg.val.maxOperand →
    ∃ r1 r2 r3 : Record,
      exec (.paCapt cap) s = .next (answer { s with cnt := { s.cnt with clean := s.cnt.clean + 3#32 } } 0x00#8
        (u32be 3#32 ++ r1.bytes ++ r2.bytes ++ r3.bytes ++ u32be 3#32 ++ u32be 0#32 ++ u32be 0#32)) ∧
      (r1.flags = 0x08#8 ∧ r1.header = { bytes := h1, count := some 0 } ∧ r1.payload = { bytes := p1, count := some 0 }) ∧
      (r2.flags = 0x08#8 ∧ r2.header = { bytes := h2, count := some 0 } ∧ r2.payload = { bytes := p2, count := some 0 }) ∧
      (r3.flags = 0x08#8 ∧ r3.header = { bytes := h3, count := some 0 } ∧ r3.payload = { bytes := p3, count := some 0 })

/-! ### System -/

/-- R104, R216, R218: FC.RXRST, NOP and CNT.CLR complete and write only what their rules name. -/
def Obligations.PlainCommandsComplete : Prop :=
  (∀ s : State, exec (.fcRxrst []) s = .next (answer { s with rx := { s.rx with state := .hunt, buf := [] } } 0x00#8 [])) ∧
  (∀ s : State, exec (.nop []) s = .next (answer s 0x00#8 [])) ∧
  ∀ s : State, exec (.cntClr []) s = .next (answer
    { s with cnt := { clean := 0#32, degraded := 0#32, dropped := 0#32, rxFrames := 0#32, rxErrors := 0#32,
                      cmdErrors := 0#32 } } 0x00#8 [])

/-- R27 to R35, R217: REG.RD completes for every assigned index with the register's value, and answers BAD_OPERAND for every
other one; it changes nothing but the response port. `STATUS.RX_LEN` is the buffer's length wherever the block's invariant
holds; in other states, which no run reaches, the field holds what fits (notes/assumptions/9.md). -/
def Obligations.RegisterReadCompletes : Prop :=
  ∀ s : State,
    (∀ (i : Byte) (v : BitVec 32),
      (i, v) ∈ [(0x00#8, 0x4B495353#32), (0x01#8, 0x00000007#32),
        (0x03#8, s.rx.addr.setWidth 32),
        (0x04#8, BitVec.ofNat 32 s.cfg.val.rsFcr ||| (s.cfg.val.rsGen.setWidth 32 <<< 8)
          ||| ((BitVec.ofBool (decide (s.cfg.val.sparePos = .lead))).setWidth 32 <<< 16)
          ||| ((BitVec.ofBool s.cfg.val.descrambleUncorrected).setWidth 32 <<< 17)
          ||| ((BitVec.ofBool s.cfg.val.crcReflect).setWidth 32 <<< 18)),
        (0x05#8, (s.cfg.val.crcPoly.setWidth 32 <<< 16) ||| s.cfg.val.crcXorout.setWidth 32),
        (0x10#8, s.cnt.clean), (0x11#8, s.cnt.degraded), (0x12#8, s.cnt.dropped),
        (0x13#8, s.cnt.rxFrames), (0x14#8, s.cnt.rxErrors), (0x15#8, s.cnt.cmdErrors)] →
      exec (.regRd [i]) s = .next { s with rspStream := s.rspStream ++ packet 0x00#8 (u32be v) }) ∧
    (∃ v : BitVec 32, exec (.regRd [0x02#8]) s = .next { s with rspStream := s.rspStream ++ packet 0x00#8 (u32be v) } ∧
      v.extractLsb' 0 2 = s.rx.state.code ∧ v.extractLsb' 2 6 = 0#6 ∧ v.extractLsb' 8 8 = s.lastSts ∧
      (s.Inv → (v.extractLsb' 16 16).toNat = s.rx.buf.length)) ∧
    ∀ i : Byte, (0x06#8 ≤ i ∧ i ≤ 0x0F#8) ∨ 0x16#8 ≤ i →
      exec (.regRd [i]) s = .next { s with rspStream := s.rspStream ++ packet 0x82#8 [] }
end

