-- ==== Sys2Proof/Laws/State.lean ====
section
/-! SUPPORT. One lemma per field of State and per update of it, true by rfl: a proof never unfolds a record update. -/

namespace Sys2Proof.Machine

variable (s : State)

/-! ### State.emit -/

@[simp] theorem State.emit_rx (st : Status) (r : Bytes) : (s.emit st r).rx = s.rx := rfl
@[simp] theorem State.emit_lastSts (st : Status) (r : Bytes) : (s.emit st r).lastSts = s.lastSts := rfl
@[simp] theorem State.emit_cnt (st : Status) (r : Bytes) : (s.emit st r).cnt = s.cnt := rfl
@[simp] theorem State.emit_cmdStream (st : Status) (r : Bytes) : (s.emit st r).cmdStream = s.cmdStream := rfl
@[simp] theorem State.emit_cmdPos (st : Status) (r : Bytes) : (s.emit st r).cmdPos = s.cmdPos := rfl
@[simp] theorem State.emit_rspStream (st : Status) (r : Bytes) : (s.emit st r).rspStream = s.rspStream ++ responsePacket st r := rfl
@[simp] theorem State.emit_cfg (st : Status) (r : Bytes) : (s.emit st r).cfg = s.cfg := rfl

/-! ### State.setLast -/

@[simp] theorem State.setLast_rx (st : Status) : (s.setLast st).rx = s.rx := rfl
@[simp] theorem State.setLast_lastSts (st : Status) : (s.setLast st).lastSts = st.code := rfl
@[simp] theorem State.setLast_cnt (st : Status) : (s.setLast st).cnt = s.cnt := rfl
@[simp] theorem State.setLast_cmdStream (st : Status) : (s.setLast st).cmdStream = s.cmdStream := rfl
@[simp] theorem State.setLast_cmdPos (st : Status) : (s.setLast st).cmdPos = s.cmdPos := rfl
@[simp] theorem State.setLast_rspStream (st : Status) : (s.setLast st).rspStream = s.rspStream := rfl
@[simp] theorem State.setLast_cfg (st : Status) : (s.setLast st).cfg = s.cfg := rfl

/-! ### State.respond -/

@[simp] theorem State.respond_rx (st : Status) (r : Bytes) : (s.respond st r).rx = s.rx := rfl
@[simp] theorem State.respond_lastSts (st : Status) (r : Bytes) : (s.respond st r).lastSts = st.code := rfl
@[simp] theorem State.respond_cnt (st : Status) (r : Bytes) : (s.respond st r).cnt = s.cnt := rfl
@[simp] theorem State.respond_cmdStream (st : Status) (r : Bytes) : (s.respond st r).cmdStream = s.cmdStream := rfl
@[simp] theorem State.respond_cmdPos (st : Status) (r : Bytes) : (s.respond st r).cmdPos = s.cmdPos := rfl
@[simp] theorem State.respond_rspStream (st : Status) (r : Bytes) : (s.respond st r).rspStream = s.rspStream ++ responsePacket st r := rfl
@[simp] theorem State.respond_cfg (st : Status) (r : Bytes) : (s.respond st r).cfg = s.cfg := rfl

/-! ### State.raise -/

@[simp] theorem State.raise_rx (st : Status) : (s.raise st).rx = s.rx := rfl
@[simp] theorem State.raise_lastSts (st : Status) : (s.raise st).lastSts = st.code := rfl
@[simp] theorem State.raise_cnt (st : Status) : (s.raise st).cnt = if st.isCommandError then s.cnt.countCmdError else s.cnt := rfl
@[simp] theorem State.raise_cmdStream (st : Status) : (s.raise st).cmdStream = s.cmdStream := rfl
@[simp] theorem State.raise_cmdPos (st : Status) : (s.raise st).cmdPos = s.cmdPos := rfl
@[simp] theorem State.raise_rspStream (st : Status) : (s.raise st).rspStream = s.rspStream ++ responsePacket st [] := rfl
@[simp] theorem State.raise_cfg (st : Status) : (s.raise st).cfg = s.cfg := rfl

/-! ### State.answerQuietly -/

@[simp] theorem State.answerQuietly_rx (st : Status) (r : Bytes) : (s.answerQuietly st r).rx = s.rx := rfl
@[simp] theorem State.answerQuietly_lastSts (st : Status) (r : Bytes) : (s.answerQuietly st r).lastSts = s.lastSts := rfl
@[simp] theorem State.answerQuietly_cnt (st : Status) (r : Bytes) : (s.answerQuietly st r).cnt = s.cnt := rfl
@[simp] theorem State.answerQuietly_cmdStream (st : Status) (r : Bytes) : (s.answerQuietly st r).cmdStream = s.cmdStream := rfl
@[simp] theorem State.answerQuietly_cmdPos (st : Status) (r : Bytes) : (s.answerQuietly st r).cmdPos = s.cmdPos := rfl
@[simp] theorem State.answerQuietly_rspStream (st : Status) (r : Bytes) : (s.answerQuietly st r).rspStream = s.rspStream ++ responsePacket st r := rfl
@[simp] theorem State.answerQuietly_cfg (st : Status) (r : Bytes) : (s.answerQuietly st r).cfg = s.cfg := rfl

/-! ### State.advance -/

@[simp] theorem State.advance_rx (n : Nat) : (s.advance n).rx = s.rx := rfl
@[simp] theorem State.advance_lastSts (n : Nat) : (s.advance n).lastSts = s.lastSts := rfl
@[simp] theorem State.advance_cnt (n : Nat) : (s.advance n).cnt = s.cnt := rfl
@[simp] theorem State.advance_cmdStream (n : Nat) : (s.advance n).cmdStream = s.cmdStream := rfl
@[simp] theorem State.advance_cmdPos (n : Nat) : (s.advance n).cmdPos = s.cmdPos + n := rfl
@[simp] theorem State.advance_rspStream (n : Nat) : (s.advance n).rspStream = s.rspStream := rfl
@[simp] theorem State.advance_cfg (n : Nat) : (s.advance n).cfg = s.cfg := rfl

/-! ### State.resetPersistent -/

@[simp] theorem State.resetPersistent_rx : (s.resetPersistent).rx = Deframer.atReset := rfl
@[simp] theorem State.resetPersistent_lastSts : (s.resetPersistent).lastSts = 0x00#8 := rfl
@[simp] theorem State.resetPersistent_cnt : (s.resetPersistent).cnt = Counters.zero := rfl
@[simp] theorem State.resetPersistent_cmdStream : (s.resetPersistent).cmdStream = s.cmdStream := rfl
@[simp] theorem State.resetPersistent_cmdPos : (s.resetPersistent).cmdPos = s.cmdPos := rfl
@[simp] theorem State.resetPersistent_rspStream : (s.resetPersistent).rspStream = s.rspStream := rfl
@[simp] theorem State.resetPersistent_cfg : (s.resetPersistent).cfg = s.cfg := rfl

/-! ### State.countFrames -/

@[simp] theorem State.countFrames_rx (nc nd nx : Nat) : (s.countFrames nc nd nx).rx = s.rx := rfl
@[simp] theorem State.countFrames_lastSts (nc nd nx : Nat) : (s.countFrames nc nd nx).lastSts = s.lastSts := rfl
@[simp] theorem State.countFrames_cnt (nc nd nx : Nat) : (s.countFrames nc nd nx).cnt = s.cnt.addFrames nc nd nx := rfl
@[simp] theorem State.countFrames_cmdStream (nc nd nx : Nat) : (s.countFrames nc nd nx).cmdStream = s.cmdStream := rfl
@[simp] theorem State.countFrames_cmdPos (nc nd nx : Nat) : (s.countFrames nc nd nx).cmdPos = s.cmdPos := rfl
@[simp] theorem State.countFrames_rspStream (nc nd nx : Nat) : (s.countFrames nc nd nx).rspStream = s.rspStream := rfl
@[simp] theorem State.countFrames_cfg (nc nd nx : Nat) : (s.countFrames nc nd nx).cfg = s.cfg := rfl

/-! ### State.finishRx -/

@[simp] theorem State.finishRx_rx (o : RxOutcome) : (s.finishRx o).rx = o.rx := rfl
@[simp] theorem State.finishRx_lastSts (o : RxOutcome) : (s.finishRx o).lastSts = o.status.code := rfl
@[simp] theorem State.finishRx_cnt (o : RxOutcome) : (s.finishRx o).cnt = s.cnt.countRx o.status := rfl
@[simp] theorem State.finishRx_cmdStream (o : RxOutcome) : (s.finishRx o).cmdStream = s.cmdStream := rfl
@[simp] theorem State.finishRx_cmdPos (o : RxOutcome) : (s.finishRx o).cmdPos = s.cmdPos := rfl
@[simp] theorem State.finishRx_rspStream (o : RxOutcome) : (s.finishRx o).rspStream = s.rspStream ++ responsePacket o.status o.result := rfl
@[simp] theorem State.finishRx_cfg (o : RxOutcome) : (s.finishRx o).cfg = s.cfg := rfl

/-! ### State.receive -/

@[simp] theorem State.receive_rx (bs : Bytes) : (s.receive bs).rx = s.rx := rfl
@[simp] theorem State.receive_lastSts (bs : Bytes) : (s.receive bs).lastSts = s.lastSts := rfl
@[simp] theorem State.receive_cnt (bs : Bytes) : (s.receive bs).cnt = s.cnt := rfl
@[simp] theorem State.receive_cmdStream (bs : Bytes) : (s.receive bs).cmdStream = s.cmdStream ++ bs := rfl
@[simp] theorem State.receive_cmdPos (bs : Bytes) : (s.receive bs).cmdPos = s.cmdPos := rfl
@[simp] theorem State.receive_rspStream (bs : Bytes) : (s.receive bs).rspStream = s.rspStream := rfl
@[simp] theorem State.receive_cfg (bs : Bytes) : (s.receive bs).cfg = s.cfg := rfl

/-! ### State.withPending -/

@[simp] theorem State.withPending_rx (bs : Bytes) : (s.withPending bs).rx = s.rx := rfl
@[simp] theorem State.withPending_lastSts (bs : Bytes) : (s.withPending bs).lastSts = s.lastSts := rfl
@[simp] theorem State.withPending_cnt (bs : Bytes) : (s.withPending bs).cnt = s.cnt := rfl
@[simp] theorem State.withPending_cmdStream (bs : Bytes) : (s.withPending bs).cmdStream = (padZeros s.cmdPos s.cmdStream).take s.cmdPos ++ bs := rfl
@[simp] theorem State.withPending_cmdPos (bs : Bytes) : (s.withPending bs).cmdPos = s.cmdPos := rfl
@[simp] theorem State.withPending_rspStream (bs : Bytes) : (s.withPending bs).rspStream = s.rspStream := rfl
@[simp] theorem State.withPending_cfg (bs : Bytes) : (s.withPending bs).cfg = s.cfg := rfl

/-! ### Counters -/

variable (c : Counters)

@[simp] theorem Counters.countCmdError_clean : c.countCmdError.clean = c.clean := rfl
@[simp] theorem Counters.countCmdError_degraded : c.countCmdError.degraded = c.degraded := rfl
@[simp] theorem Counters.countCmdError_dropped : c.countCmdError.dropped = c.dropped := rfl
@[simp] theorem Counters.countCmdError_rxFrames : c.countCmdError.rxFrames = c.rxFrames := rfl
@[simp] theorem Counters.countCmdError_rxErrors : c.countCmdError.rxErrors = c.rxErrors := rfl
@[simp] theorem Counters.countCmdError_cmdErrors : c.countCmdError.cmdErrors = c.cmdErrors + 1#32 := rfl

@[simp] theorem Counters.countRx_clean (st : Status) : (c.countRx st).clean = c.clean := rfl
@[simp] theorem Counters.countRx_degraded (st : Status) : (c.countRx st).degraded = c.degraded := rfl
@[simp] theorem Counters.countRx_dropped (st : Status) : (c.countRx st).dropped = c.dropped := rfl
@[simp] theorem Counters.countRx_cmdErrors (st : Status) : (c.countRx st).cmdErrors = c.cmdErrors := rfl
@[simp] theorem Counters.countRx_ok : c.countRx .ok = c := rfl

@[simp] theorem Counters.addFrames_rxFrames (nc nd nx : Nat) : (c.addFrames nc nd nx).rxFrames = c.rxFrames := rfl
@[simp] theorem Counters.addFrames_rxErrors (nc nd nx : Nat) : (c.addFrames nc nd nx).rxErrors = c.rxErrors := rfl
@[simp] theorem Counters.addFrames_cmdErrors (nc nd nx : Nat) : (c.addFrames nc nd nx).cmdErrors = c.cmdErrors := rfl
@[simp] theorem Counters.addFrames_clean (nc nd nx : Nat) :
    (c.addFrames nc nd nx).clean = c.clean + BitVec.ofNat 32 nc := rfl
@[simp] theorem Counters.addFrames_degraded (nc nd nx : Nat) :
    (c.addFrames nc nd nx).degraded = c.degraded + BitVec.ofNat 32 nd := rfl
@[simp] theorem Counters.addFrames_dropped (nc nd nx : Nat) :
    (c.addFrames nc nd nx).dropped = c.dropped + BitVec.ofNat 32 nx := rfl

end Sys2Proof.Machine
end

