-- ==== Sys2Proof/Laws/Ops.lean ====
section
/-! SUPPORT. For each shared operation, one lemma that says once everything it can do. -/

namespace Sys2Proof.Machine

/-! ### Bytes and packets -/

@[simp] theorem u16be_length (v : BitVec 16) : (u16be v).length = 2 := rfl
@[simp] theorem u32be_length (v : BitVec 32) : (u32be v).length = 4 := rfl

@[simp] theorem slice_length (a b : Nat) (bs : Bytes) : (slice a b bs).length = min b bs.length - a := by
  simp [slice]

theorem be32_u32be (v : BitVec 32) :
    be32 (v.extractLsb' 24 8) (v.extractLsb' 16 8) (v.extractLsb' 8 8) (v.extractLsb' 0 8) = v := by
  unfold be32
  rw [BitVec.extractLsb'_append_extractLsb'_eq_extractLsb' (by omega),
    BitVec.extractLsb'_append_extractLsb'_eq_extractLsb' (by omega),
    BitVec.extractLsb'_append_extractLsb'_eq_extractLsb' (by omega)]
  simp

@[simp] theorem responsePacket_length (st : Status) (r : Bytes) : (responsePacket st r).length = 5 + r.length := by
  simp only [responsePacket, List.cons_append, List.length_cons, List.length_append, u32be_length]; omega

theorem rlen_of_lt {n : Nat} (h : n < 2 ^ 32) : rlen n = BitVec.ofNat 32 n := by
  simp only [rlen, h, ite_true]

theorem responsePacket_nil (st : Status) : responsePacket st [] = [st.code, 0#8, 0#8, 0#8, 0#8] := rfl

/-! ### Operand formats -/

theorem checkLen_eq_ok_iff {c : Config} {lo hi : Nat} {op : Bytes} {u : Unit} :
    checkLen c lo hi op = .ok u ↔ op.length ≤ c.maxOperand ∧ lo ≤ op.length ∧ op.length ≤ hi := by
  unfold checkLen
  split <;> rename_i h1
  · simp; omega
  · split <;> rename_i h2 <;> simp <;> omega

/-- The length check has one error only (R229). -/
theorem checkLen_eq_error {c : Config} {lo hi : Nat} {op : Bytes} {st : Status}
    (h : checkLen c lo hi op = .error st) : st = .badLength := by
  unfold checkLen at h
  split at h
  · cases h; rfl
  · split at h <;> cases h; rfl

/-- A length check followed by a reading of the operand: it succeeds exactly where the check does. -/
theorem checkLen_map_eq_ok_iff {α : Type} {c : Config} {lo hi : Nat} {op : Bytes} {v a : α} :
    (checkLen c lo hi op).map (fun _ => v) = .ok a ↔
      (op.length ≤ c.maxOperand ∧ lo ≤ op.length ∧ op.length ≤ hi) ∧ v = a := by
  rcases hc : checkLen c lo hi op with st | u
  · have : ¬(op.length ≤ c.maxOperand ∧ lo ≤ op.length ∧ op.length ≤ hi) := by
      intro h; rw [(checkLen_eq_ok_iff (u := ())).2 h] at hc; cases hc
    simp [Except.map, this]
  · have := checkLen_eq_ok_iff.1 hc
    simp [Except.map, this]

theorem checkLen_map_eq_error {α : Type} {c : Config} {lo hi : Nat} {op : Bytes} {v : α} {st : Status}
    (h : (checkLen c lo hi op).map (fun _ => v) = .error st) : st = .badLength := by
  rcases hc : checkLen c lo hi op with st' | u
  · rw [hc] at h; cases h; exact checkLen_eq_error hc
  · rw [hc] at h; cases h

/-! ### How a command ends -/

@[simp] theorem withOperand_ok {α : Type} (s : State) (a : α) (k : α → State) :
    withOperand s (.ok a) k = .next (k a) := rfl

@[simp] theorem withOperand_error {α : Type} (s : State) (st : Status) (k : α → State) :
    withOperand s (.error st) k = .next (s.raise st) := rfl

/-- Everything `withOperand` can do: raise the operand's error, or go on with the operand. -/
theorem withOperand_cases {α : Type} {s t : State} {p : Except Status α} {k : α → State}
    (h : withOperand s p k = .next t) :
    (∃ st, p = .error st ∧ t = s.raise st) ∨ (∃ a, p = .ok a ∧ t = k a) := by
  cases p with
  | error st => exact .inl ⟨st, rfl, by simpa using h.symm⟩
  | ok a => exact .inr ⟨a, rfl, by simpa using h.symm⟩

/-- Everything `finishDecode` can do (R156). -/
theorem finishDecode_cases (s : State) (r : Bytes) (t : Nat) :
    (bdDecode s.cfg.val r t = none ∧ s.finishDecode r t = s.raise .uncorrectableBlock) ∨
    (∃ w d, bdDecode s.cfg.val r t = some (w, d) ∧
      s.finishDecode r t = s.respond .ok (w.take (r.length - t) ++ [BitVec.ofNat 8 d])) := by
  unfold State.finishDecode
  rcases bdDecode s.cfg.val r t with _ | ⟨w, d⟩
  · exact .inl ⟨rfl, rfl⟩
  · exact .inr ⟨w, d, rfl, rfl⟩

/-- Everything `finishFrame` can do (R197). -/
theorem finishFrame_cases (s : State) (res : FrameResult) :
    (∃ reason, res = .drop reason ∧ s.finishFrame res = (s.countFrames 0 0 1).raise reason) ∨
    (∃ r, res = .record r ∧ flagsClean r.flags = true ∧ s.finishFrame res = (s.countFrames 1 0 0).respond .ok r.bytes) ∨
    (∃ r, res = .record r ∧ flagsClean r.flags = false ∧ s.finishFrame res = (s.countFrames 0 1 0).respond .ok r.bytes) := by
  cases res with
  | drop reason => exact .inl ⟨reason, rfl, rfl⟩
  | record r =>
    rcases hf : flagsClean r.flags with _ | _
    · exact .inr (.inr ⟨r, rfl, hf, by simp [State.finishFrame, hf]⟩)
    · exact .inr (.inl ⟨r, rfl, hf, by simp [State.finishFrame, hf]⟩)

/-- Everything `answerRegister` can do (R217). -/
theorem answerRegister_cases (s : State) (i : Byte) :
    (∃ v, readRegister s i = some v ∧ s.answerRegister i = s.answerQuietly .ok (u32be v)) ∨
    (readRegister s i = none ∧ s.answerRegister i = s.answerQuietly .badOperand []) := by
  unfold State.answerRegister
  rcases readRegister s i with _ | v
  · exact .inr ⟨rfl, rfl⟩
  · exact .inl ⟨v, rfl, rfl⟩

/-- The deframer answers with one of five statuses, and only OK_FRAME carries a result (R97 to R102). -/
theorem deframerStep_status (m : Nat) (rx : Deframer) (b : Byte) :
    ((deframerStep m rx b).status = .okFrame ∧ (deframerStep m rx b).result = rx.addr :: rx.buf) ∨
    ((deframerStep m rx b).result = [] ∧
      (deframerStep m rx b).status ∈ [Status.ok, .incompleteEscape, .invalidEscape, .rxOverflow]) := by
  unfold deframerStep
  split
  · unfold rxHunt; split <;> simp
  · unfold rxAddr; split <;> simp
  · unfold rxData rxAppend; split
    · simp
    · split
      · simp
      · split <;> simp
  · unfold rxEsc rxAppend; split
    · split <;> simp
    · split
      · split <;> simp
      · split <;> simp

/-- The two drop reasons (R189, R203), and the record of a body of legal length. -/
theorem decodeFrame_cases (c : Config) (body : Bytes) (off : Nat) :
    (body.length < 36 ∧ decodeFrame c body off = .drop .frameTooShort) ∨
    (275 < body.length ∧ decodeFrame c body off = .drop .frameTooLong) ∨
    (36 ≤ body.length ∧ body.length ≤ 275 ∧ decodeFrame c body off = .record (decodeBody c body off)) := by
  have h36 : overhead = 36 := rfl
  have h239 : pMax = 239 := rfl
  unfold decodeFrame
  rw [h36, h239]
  split
  · exact .inl ⟨by assumption, rfl⟩
  · split
    · exact .inr (.inl ⟨by omega, rfl⟩)
    · exact .inr (.inr ⟨by omega, by omega, rfl⟩)

/-! ### Fetch and step -/

@[simp] theorem padZeros_length (n : Nat) (bs : Bytes) : (padZeros n bs).length = max n bs.length := by
  simp only [padZeros, List.length_append, List.length_replicate]; omega

/-- What was put on the port is what the parser finds. -/
@[simp] theorem withPending_pending (s : State) (bs : Bytes) : (s.withPending bs).pending = bs := by
  have h : ((padZeros s.cmdPos s.cmdStream).take s.cmdPos).length = s.cmdPos := by simp
  simp only [State.pending, State.withPending_cmdStream, State.withPending_cmdPos]
  rw [List.drop_append_of_le_length (by omega), List.drop_of_length_le (by omega), List.nil_append]

/-- Everything a step can do. -/
theorem step_cases {s t : State} (h : step s = .next t) :
    (∃ i n, s.fetch = .command i n ∧ exec i (s.advance n) = .next t) ∨
    (∃ opc n, s.fetch = .illegalOpcode opc n ∧ t = (s.advance n).raise .illegalOpcode) ∨
    (s.fetch = .incomplete ∧ t = s) := by
  unfold step at h
  split at h
  · exact .inl ⟨_, _, by assumption, h⟩
  · refine .inr (.inl ⟨_, _, by assumption, ?_⟩)
    simpa [illegalOpcodeStep] using h.symm
  · exact .inr (.inr ⟨by assumption, by simpa using h.symm⟩)

end Sys2Proof.Machine
end

