-- ==== Sys2Proof/Laws/Exec.lean ====
section
/-! SUPPORT. For each command's meaning, one lemma that says everything it can do. A proof about `exec` cites these and unfolds no
meaning. -/

namespace Sys2Proof.Machine

variable {op : Bytes} {s t : State}

/-- A command over a length check alone: BAD_LENGTH outside the range, else it goes on. -/
theorem withOperand_checkLen_cases {α : Type} {lo hi : Nat} {v : α} {k : α → State}
    (h : withOperand s ((checkLen s.cfg.val lo hi op).map fun _ => v) k = .next t) :
    (¬(op.length ≤ s.cfg.val.maxOperand ∧ lo ≤ op.length ∧ op.length ≤ hi) ∧ t = s.raise .badLength) ∨
    ((op.length ≤ s.cfg.val.maxOperand ∧ lo ≤ op.length ∧ op.length ≤ hi) ∧ t = k v) := by
  rcases hc : checkLen s.cfg.val lo hi op with st | u
  · have hs := checkLen_eq_error hc
    subst hs
    rw [hc] at h
    refine .inl ⟨?_, by simpa [Except.map] using h.symm⟩
    intro hl
    rw [(checkLen_eq_ok_iff (u := ())).2 hl] at hc
    cases hc
  · rw [hc] at h
    exact .inr ⟨checkLen_eq_ok_iff.1 hc, by simpa [Except.map] using h.symm⟩

/-- A command of format OB. -/
theorem withOperand_operandOB_cases {k : Bytes → State} (h : withOperand s (operandOB s.cfg.val op) k = .next t) :
    (s.cfg.val.maxOperand < op.length ∧ t = s.raise .badLength) ∨ (op.length ≤ s.cfg.val.maxOperand ∧ t = k op) := by
  rcases withOperand_checkLen_cases h with ⟨hl, ht⟩ | ⟨hl, ht⟩
  · exact .inl ⟨by omega, ht⟩
  · exact .inr ⟨hl.1, ht⟩

/-- A command of format O0. -/
theorem withOperand_operandO0_cases {k : Unit → State} (h : withOperand s (operandO0 s.cfg.val op) k = .next t) :
    (op ≠ [] ∧ t = s.raise .badLength) ∨ (op = [] ∧ t = k ()) := by
  unfold operandO0 at h
  rcases hc : checkLen s.cfg.val 0 0 op with st | u
  · have hs := checkLen_eq_error hc
    subst hs
    rw [hc] at h
    refine .inl ⟨?_, by simpa using h.symm⟩
    rintro rfl
    rw [(checkLen_eq_ok_iff (u := ())).2 (by simp)] at hc
    cases hc
  · rw [hc] at h
    have := (checkLen_eq_ok_iff.1 hc).2.2
    exact .inr ⟨List.length_eq_zero_iff.1 (by omega), by simpa using h.symm⟩

theorem execFcEsc_cases (h : execFcEsc op s = .next t) :
    (s.cfg.val.maxOperand < op.length ∧ t = s.raise .badLength) ∨
    (op.length ≤ s.cfg.val.maxOperand ∧ t = s.respond .ok (escape op)) :=
  withOperand_operandOB_cases h

theorem execFcUnesc_cases (h : execFcUnesc op s = .next t) :
    (s.cfg.val.maxOperand < op.length ∧ t = s.raise .badLength) ∨
    (op.length ≤ s.cfg.val.maxOperand ∧
      ((∃ st, unescape op = .error st ∧ t = s.raise st) ∨ (∃ r, unescape op = .ok r ∧ t = s.respond .ok r))) := by
  rcases withOperand_operandOB_cases h with h | ⟨hl, ht⟩
  · exact .inl h
  · refine .inr ⟨hl, ?_⟩
    rcases hu : unescape op with st | r
    · exact .inl ⟨st, rfl, by simpa [hu] using ht⟩
    · exact .inr ⟨r, rfl, by simpa [hu] using ht⟩

theorem execFcFrame_cases (h : execFcFrame op s = .next t) :
    ((s.cfg.val.maxOperand < op.length ∨ op = []) ∧ t = s.raise .badLength) ∨
    ∃ a d, op = a :: d ∧ op.length ≤ s.cfg.val.maxOperand ∧
      ((a = fend ∧ t = s.raise .badOperand) ∨ (a ≠ fend ∧ t = s.respond .ok (frameBytes a d))) := by
  rcases withOperand_checkLen_cases h with ⟨hl, ht⟩ | ⟨hl, ht⟩
  · refine .inl ⟨?_, ht⟩
    rcases op with _ | ⟨a, d⟩
    · exact .inr rfl
    · exact .inl (by simp only [List.length_cons] at hl ⊢; omega)
  · rcases op with _ | ⟨a, d⟩
    · exact absurd hl.2.1 (by simp)
    · refine .inr ⟨a, d, rfl, hl.1, ?_⟩
      by_cases ha : a = fend
      · exact .inl ⟨ha, by simpa [ha] using ht⟩
      · exact .inr ⟨ha, by simpa [ha] using ht⟩

theorem execFcRx_cases (h : execFcRx op s = .next t) :
    ((s.cfg.val.maxOperand < op.length ∨ op.length ≠ 1) ∧ t = s.raise .badLength) ∨
    ∃ b, op = [b] ∧ t = s.finishRx (deframerStep s.cfg.val.rxbufMax s.rx b) := by
  rcases withOperand_checkLen_cases h with ⟨hl, ht⟩ | ⟨hl, ht⟩
  · exact .inl ⟨by omega, ht⟩
  · obtain ⟨b, rfl⟩ := List.length_eq_one_iff.1 (show op.length = 1 by omega)
    exact .inr ⟨b, rfl, ht⟩

theorem execFcRxrst_cases (h : execFcRxrst op s = .next t) :
    (op ≠ [] ∧ t = s.raise .badLength) ∨
    (op = [] ∧ t = ({ s with rx := { s.rx with state := .hunt, buf := [] } }).respond .ok []) :=
  withOperand_operandO0_cases h

theorem execDlFind_cases (h : execDlFind op s = .next t) :
    (s.cfg.val.maxOperand < op.length ∧ t = s.raise .badLength) ∨
    (op.length ≤ s.cfg.val.maxOperand ∧ t = s.respond .ok ((locate op).flatMap fun v => u32be (BitVec.ofInt 32 v))) :=
  withOperand_operandOB_cases h

theorem execDsDesc_cases (h : execDsDesc op s = .next t) :
    (s.cfg.val.maxOperand < op.length ∧ t = s.raise .badLength) ∨
    (op.length ≤ s.cfg.val.maxOperand ∧ t = s.respond .ok (descramble op dsInit)) :=
  withOperand_operandOB_cases h

theorem execDsDescs_cases (h : execDsDescs op s = .next t) :
    ((s.cfg.val.maxOperand < op.length ∨ op.length < 2) ∧ t = s.raise .badLength) ∨
    ∃ b1 b0 blk, op = b1 :: b0 :: blk ∧ op.length ≤ s.cfg.val.maxOperand ∧
      ((0x1FF#16 < be16 b1 b0 ∧ t = s.raise .badOperand) ∨
       (be16 b1 b0 ≤ 0x1FF#16 ∧ t = s.respond .ok (descramble blk ((be16 b1 b0).setWidth 9)))) := by
  unfold execDsDescs operandOS at h
  rcases hc : checkLen s.cfg.val 2 s.cfg.val.maxOperand op with st | u
  · have hs := checkLen_eq_error hc
    subst hs
    rw [hc] at h
    refine .inl ⟨?_, by simpa using h.symm⟩
    by_contra hn
    rw [(checkLen_eq_ok_iff (u := ())).2 (by omega)] at hc
    cases hc
  · rw [hc] at h
    obtain ⟨h1, h2, -⟩ := checkLen_eq_ok_iff.1 hc
    obtain ⟨b1, b0, blk, rfl⟩ : ∃ b1 b0 blk, op = b1 :: b0 :: blk := by
      rcases op with _ | ⟨b1, _ | ⟨b0, blk⟩⟩
      · simp at h2
      · simp at h2
      · exact ⟨_, _, _, rfl⟩
    refine .inr ⟨b1, b0, blk, rfl, h1, ?_⟩
    by_cases hb : 0x1FF#16 < be16 b1 b0
    · exact .inl ⟨hb, by simpa [hb] using h.symm⟩
    · exact .inr ⟨BitVec.not_lt.1 hb, by simpa [hb] using h.symm⟩

theorem execFecHchk_cases (h : execFecHchk op s = .next t) :
    ((s.cfg.val.maxOperand < op.length ∨ op.length ≠ 15) ∧ t = s.raise .badLength) ∨
    (op.length ≤ s.cfg.val.maxOperand ∧ op.length = 15 ∧ t = s.respond .ok (checkByte (fecCheck s.cfg.val op 2))) := by
  have h15 : hdrLen + hparLen = 15 := rfl
  rcases withOperand_checkLen_cases h with ⟨hl, ht⟩ | ⟨hl, ht⟩
  · exact .inl ⟨by omega, ht⟩
  · exact .inr ⟨hl.1, by omega, ht⟩

theorem execFecHdec_cases (h : execFecHdec op s = .next t) :
    ((s.cfg.val.maxOperand < op.length ∨ op.length ≠ 15) ∧ t = s.raise .badLength) ∨
    (op.length ≤ s.cfg.val.maxOperand ∧ op.length = 15 ∧ t = s.finishDecode op 2) := by
  have h15 : hdrLen + hparLen = 15 := rfl
  rcases withOperand_checkLen_cases h with ⟨hl, ht⟩ | ⟨hl, ht⟩
  · exact .inl ⟨by omega, ht⟩
  · exact .inr ⟨hl.1, by omega, ht⟩

theorem execFecPchk_cases (h : execFecPchk op s = .next t) :
    ((s.cfg.val.maxOperand < op.length ∨ op.length < 16 ∨ 255 < op.length) ∧ t = s.raise .badLength) ∨
    (op.length ≤ s.cfg.val.maxOperand ∧ 16 ≤ op.length ∧ op.length ≤ 255 ∧
      t = s.respond .ok (checkByte (fecCheck s.cfg.val op 16))) := by
  have h16 : pparLen = 16 := rfl
  have h255 : rsNmax = 255 := rfl
  rcases withOperand_checkLen_cases h with ⟨hl, ht⟩ | ⟨hl, ht⟩
  · exact .inl ⟨by omega, ht⟩
  · exact .inr ⟨hl.1, by omega, by omega, ht⟩

theorem execFecPdec_cases (h : execFecPdec op s = .next t) :
    ((s.cfg.val.maxOperand < op.length ∨ op.length < 16 ∨ 255 < op.length) ∧ t = s.raise .badLength) ∨
    (op.length ≤ s.cfg.val.maxOperand ∧ 16 ≤ op.length ∧ op.length ≤ 255 ∧ t = s.finishDecode op 16) := by
  have h16 : pparLen = 16 := rfl
  have h255 : rsNmax = 255 := rfl
  rcases withOperand_checkLen_cases h with ⟨hl, ht⟩ | ⟨hl, ht⟩
  · exact .inl ⟨by omega, ht⟩
  · exact .inr ⟨hl.1, by omega, by omega, ht⟩

theorem execCrRec_cases (h : execCrRec op s = .next t) :
    ((s.cfg.val.maxOperand < op.length ∨ op.length ≠ 4) ∧ t = s.raise .badLength) ∨
    (op.length ≤ s.cfg.val.maxOperand ∧ op.length = 4 ∧ t = s.respond .ok (u16be (recover s.cfg.val op))) := by
  have h4 : ecsLen = 4 := rfl
  rcases withOperand_checkLen_cases h with ⟨hl, ht⟩ | ⟨hl, ht⟩
  · exact .inl ⟨by omega, ht⟩
  · exact .inr ⟨hl.1, by omega, ht⟩

theorem execCrcCalc_cases (h : execCrcCalc op s = .next t) :
    (s.cfg.val.maxOperand < op.length ∧ t = s.raise .badLength) ∨
    (op.length ≤ s.cfg.val.maxOperand ∧ t = s.respond .ok (u16be (crc16 s.cfg.val op))) :=
  withOperand_operandOB_cases h

theorem execCrcRef_cases (h : execCrcRef op s = .next t) :
    (s.cfg.val.maxOperand < op.length ∧ t = s.raise .badLength) ∨
    (op.length ≤ s.cfg.val.maxOperand ∧ t = s.respond .ok (u16be (refCrc s.cfg.val op))) :=
  withOperand_operandOB_cases h

theorem execPaFrame_cases (h : execPaFrame op s = .next t) :
    (s.cfg.val.maxOperand < op.length ∧ t = s.raise .badLength) ∨
    (op.length ≤ s.cfg.val.maxOperand ∧ t = s.finishFrame (decodeFrame s.cfg.val op 0)) :=
  withOperand_operandOB_cases h

theorem execPaCapt_cases (h : execPaCapt op s = .next t) :
    (s.cfg.val.maxOperand < op.length ∧ t = s.raise .badLength) ∨
    (op.length ≤ s.cfg.val.maxOperand ∧
      t = (s.countFrames (countClean (captureFrames s.cfg.val op)) (countDegraded (captureFrames s.cfg.val op))
        (countDropped (captureFrames s.cfg.val op))).respond .ok (captureResult (captureFrames s.cfg.val op))) :=
  withOperand_operandOB_cases h

theorem execNop_cases (h : execNop op s = .next t) :
    (op ≠ [] ∧ t = s.raise .badLength) ∨ (op = [] ∧ t = s.respond .ok []) :=
  withOperand_operandO0_cases h

theorem execRegRd_cases (h : execRegRd op s = .next t) :
    ((s.cfg.val.maxOperand < op.length ∨ op.length ≠ 1) ∧ t = s.answerQuietly .badLength []) ∨
    ∃ i, op = [i] ∧ op.length ≤ s.cfg.val.maxOperand ∧ t = s.answerRegister i := by
  unfold execRegRd at h
  rcases hc : operandOR s.cfg.val op with st | i
  · have hs := checkLen_map_eq_error hc
    subst hs
    rw [hc] at h
    refine .inl ⟨?_, by simpa using h.symm⟩
    by_contra hn
    have : operandOR s.cfg.val op = .ok (op.headD 0#8) := checkLen_map_eq_ok_iff.2 ⟨by omega, rfl⟩
    rw [this] at hc
    cases hc
  · rw [hc] at h
    obtain ⟨hl, rfl⟩ := checkLen_map_eq_ok_iff.1 hc
    obtain ⟨b, rfl⟩ := List.length_eq_one_iff.1 (show op.length = 1 by omega)
    exact .inr ⟨b, rfl, hl.1, by simpa using h.symm⟩

theorem execCntClr_cases (h : execCntClr op s = .next t) :
    (op ≠ [] ∧ t = s.raise .badLength) ∨ (op = [] ∧ t = ({ s with cnt := Counters.zero }).respond .ok []) :=
  withOperand_operandO0_cases h

theorem execReset_cases (h : execReset op s = .next t) :
    (op ≠ [] ∧ t = s.raise .badLength) ∨ (op = [] ∧ t = s.resetPersistent.respond .ok []) :=
  withOperand_operandO0_cases h

/-! ### All commands -/

/-- UNESCAPE has two errors only (R93). -/
theorem unescape_error {d : Bytes} {st : Status} (h : unescape d = .error st) :
    st = .incompleteEscape ∨ st = .invalidEscape := by
  induction d using unescape.induct with
  | case1 => cases h
  | case2 => exact .inl (by simpa [unescape] using h.symm)
  | case3 b hb => simp [unescape, hb] at h
  | case4 rest ih =>
    rcases hu : unescape rest with st' | r
    · simp [unescape, hu, Except.map] at h
      exact ih (h ▸ hu)
    · simp [unescape, hu, Except.map] at h
  | case5 rest hne ih =>
    rcases hu : unescape rest with st' | r
    · simp [unescape, hu, Except.map, hne] at h
      exact ih (h ▸ hu)
    · simp [unescape, hu, Except.map, hne] at h
  | case6 c rest h1 h2 => exact .inr (by simpa [unescape, h1, h2] using h.symm)
  | case7 b c rest hb ih =>
    rcases hu : unescape (c :: rest) with st' | r
    · simp [unescape, hu, Except.map, hb] at h
      exact ih (h ▸ hu)
    · simp [unescape, hu, Except.map, hb] at h

/-- How every command but REG.RD ends: one response, whose result is empty if its status is an error, after a change of the
deframer and the counters alone. -/
def EndsInResponse (s t : State) : Prop :=
  ∃ (st : Status) (r : Bytes) (rx : Deframer) (cnt : Counters),
    t = ({ s with rx := rx, cnt := cnt }).respond st r ∧ (st.isError = true → r = [])

theorem endsInResponse_raise (s : State) (st : Status) : EndsInResponse s (s.raise st) :=
  ⟨st, [], s.rx, _, rfl, fun _ => rfl⟩

theorem endsInResponse_ok (s : State) (r : Bytes) : EndsInResponse s (s.respond .ok r) :=
  ⟨.ok, r, s.rx, s.cnt, rfl, fun h => absurd h (by decide)⟩

theorem endsInResponse_finishRx (s : State) (m : Nat) (b : Byte) :
    EndsInResponse s (s.finishRx (deframerStep m s.rx b)) := by
  refine ⟨_, _, _, _, rfl, ?_⟩
  rcases deframerStep_status m s.rx b with ⟨h, -⟩ | ⟨h, -⟩
  · rw [h]; exact fun h => absurd h (by decide)
  · exact fun _ => h

theorem endsInResponse_finishDecode (s : State) (r : Bytes) (n : Nat) : EndsInResponse s (s.finishDecode r n) := by
  rcases finishDecode_cases s r n with ⟨-, h⟩ | ⟨w, d, -, h⟩ <;> rw [h]
  · exact endsInResponse_raise _ _
  · exact endsInResponse_ok _ _

theorem endsInResponse_finishFrame (s : State) (res : FrameResult) : EndsInResponse s (s.finishFrame res) := by
  rcases finishFrame_cases s res with ⟨reason, -, h⟩ | ⟨r, -, -, h⟩ | ⟨r, -, -, h⟩ <;> rw [h]
  · exact ⟨reason, [], s.rx, _, rfl, fun _ => rfl⟩
  · exact ⟨.ok, r.bytes, s.rx, _, rfl, fun h => absurd h (by decide)⟩
  · exact ⟨.ok, r.bytes, s.rx, _, rfl, fun h => absurd h (by decide)⟩

/-- Everything an index can make REG.RD do, as one response (R34, R217). -/
theorem answerRegister_end (s : State) (i : Byte) :
    ∃ (st : Status) (r : Bytes), s.answerRegister i = s.answerQuietly st r ∧ (st.isError = true → r = []) := by
  rcases answerRegister_cases s i with ⟨v, -, h⟩ | ⟨-, h⟩
  · exact ⟨.ok, u32be v, h, fun h => absurd h (by decide)⟩
  · exact ⟨.badOperand, [], h, fun _ => rfl⟩

/-- How any command ends. -/
theorem exec_end {i : Instr} (h : exec i s = .next t) :
    (∃ op st r, i = .regRd op ∧ t = s.answerQuietly st r ∧ (st.isError = true → r = [])) ∨
    ((∀ op, i ≠ .regRd op) ∧ EndsInResponse s t) := by
  cases i with
  | regRd op =>
    left
    rcases execRegRd_cases h with ⟨-, rfl⟩ | ⟨j, rfl, -, rfl⟩
    · exact ⟨op, .badLength, [], rfl, rfl, fun _ => rfl⟩
    · obtain ⟨st, r, h1, h2⟩ := answerRegister_end s j
      exact ⟨_, st, r, rfl, h1, h2⟩
  | reset op =>
    refine .inr ⟨by simp, ?_⟩
    rcases execReset_cases h with ⟨-, rfl⟩ | ⟨rfl, rfl⟩
    · exact endsInResponse_raise _ _
    · exact ⟨.ok, [], Deframer.atReset, Counters.zero, rfl, fun h => absurd h (by decide)⟩
  | fcEsc op =>
    refine .inr ⟨by simp, ?_⟩
    rcases execFcEsc_cases h with ⟨-, rfl⟩ | ⟨-, rfl⟩
    · exact endsInResponse_raise _ _
    · exact endsInResponse_ok _ _
  | fcUnesc op =>
    refine .inr ⟨by simp, ?_⟩
    rcases execFcUnesc_cases h with ⟨-, rfl⟩ | ⟨-, ⟨st, -, rfl⟩ | ⟨r, -, rfl⟩⟩
    · exact endsInResponse_raise _ _
    · exact endsInResponse_raise _ _
    · exact endsInResponse_ok _ _
  | fcFrame op =>
    refine .inr ⟨by simp, ?_⟩
    rcases execFcFrame_cases h with ⟨-, rfl⟩ | ⟨a, d, -, -, ⟨-, rfl⟩ | ⟨-, rfl⟩⟩
    · exact endsInResponse_raise _ _
    · exact endsInResponse_raise _ _
    · exact endsInResponse_ok _ _
  | fcRx op =>
    refine .inr ⟨by simp, ?_⟩
    rcases execFcRx_cases h with ⟨-, rfl⟩ | ⟨b, -, rfl⟩
    · exact endsInResponse_raise _ _
    · exact endsInResponse_finishRx _ _ _
  | fcRxrst op =>
    refine .inr ⟨by simp, ?_⟩
    rcases execFcRxrst_cases h with ⟨-, rfl⟩ | ⟨-, rfl⟩
    · exact endsInResponse_raise _ _
    · exact ⟨.ok, [], _, s.cnt, rfl, fun h => absurd h (by decide)⟩
  | dlFind op =>
    refine .inr ⟨by simp, ?_⟩
    rcases execDlFind_cases h with ⟨-, rfl⟩ | ⟨-, rfl⟩
    · exact endsInResponse_raise _ _
    · exact endsInResponse_ok _ _
  | dsDesc op =>
    refine .inr ⟨by simp, ?_⟩
    rcases execDsDesc_cases h with ⟨-, rfl⟩ | ⟨-, rfl⟩
    · exact endsInResponse_raise _ _
    · exact endsInResponse_ok _ _
  | dsDescs op =>
    refine .inr ⟨by simp, ?_⟩
    rcases execDsDescs_cases h with ⟨-, rfl⟩ | ⟨b1, b0, blk, -, -, ⟨-, rfl⟩ | ⟨-, rfl⟩⟩
    · exact endsInResponse_raise _ _
    · exact endsInResponse_raise _ _
    · exact endsInResponse_ok _ _
  | fecHchk op =>
    refine .inr ⟨by simp, ?_⟩
    rcases execFecHchk_cases h with ⟨-, rfl⟩ | ⟨-, -, rfl⟩
    · exact endsInResponse_raise _ _
    · exact endsInResponse_ok _ _
  | fecHdec op =>
    refine .inr ⟨by simp, ?_⟩
    rcases execFecHdec_cases h with ⟨-, rfl⟩ | ⟨-, -, rfl⟩
    · exact endsInResponse_raise _ _
    · exact endsInResponse_finishDecode _ _ _
  | fecPchk op =>
    refine .inr ⟨by simp, ?_⟩
    rcases execFecPchk_cases h with ⟨-, rfl⟩ | ⟨-, -, -, rfl⟩
    · exact endsInResponse_raise _ _
    · exact endsInResponse_ok _ _
  | fecPdec op =>
    refine .inr ⟨by simp, ?_⟩
    rcases execFecPdec_cases h with ⟨-, rfl⟩ | ⟨-, -, -, rfl⟩
    · exact endsInResponse_raise _ _
    · exact endsInResponse_finishDecode _ _ _
  | crRec op =>
    refine .inr ⟨by simp, ?_⟩
    rcases execCrRec_cases h with ⟨-, rfl⟩ | ⟨-, -, rfl⟩
    · exact endsInResponse_raise _ _
    · exact endsInResponse_ok _ _
  | crcCalc op =>
    refine .inr ⟨by simp, ?_⟩
    rcases execCrcCalc_cases h with ⟨-, rfl⟩ | ⟨-, rfl⟩
    · exact endsInResponse_raise _ _
    · exact endsInResponse_ok _ _
  | crcRef op =>
    refine .inr ⟨by simp, ?_⟩
    rcases execCrcRef_cases h with ⟨-, rfl⟩ | ⟨-, rfl⟩
    · exact endsInResponse_raise _ _
    · exact endsInResponse_ok _ _
  | paFrame op =>
    refine .inr ⟨by simp, ?_⟩
    rcases execPaFrame_cases h with ⟨-, rfl⟩ | ⟨-, rfl⟩
    · exact endsInResponse_raise _ _
    · exact endsInResponse_finishFrame _ _
  | paCapt op =>
    refine .inr ⟨by simp, ?_⟩
    rcases execPaCapt_cases h with ⟨-, rfl⟩ | ⟨-, rfl⟩
    · exact endsInResponse_raise _ _
    · exact ⟨.ok, _, s.rx, _, rfl, fun h => absurd h (by decide)⟩
  | nop op =>
    refine .inr ⟨by simp, ?_⟩
    rcases execNop_cases h with ⟨-, rfl⟩ | ⟨-, rfl⟩
    · exact endsInResponse_raise _ _
    · exact endsInResponse_ok _ _
  | cntClr op =>
    refine .inr ⟨by simp, ?_⟩
    rcases execCntClr_cases h with ⟨-, rfl⟩ | ⟨-, rfl⟩
    · exact endsInResponse_raise _ _
    · exact ⟨.ok, [], s.rx, _, rfl, fun h => absurd h (by decide)⟩

end Sys2Proof.Machine
end

