-- ==== Sys2Proof/Laws/PerInstr.lean ====
section
/-! SUPPORT. Statements for all commands, one lemma per constructor of Instr. -/

namespace Sys2Proof.Laws

/-- The opcode byte of a command names that command, with its operand bytes (R70). -/
def OpcodeNamesCommand.Statement (i : Instr) : Prop := decodeOpcode i.opcode i.operand = some i

theorem OpcodeNamesCommand.fcEsc (op : Bytes) : OpcodeNamesCommand.Statement (.fcEsc op) := rfl
theorem OpcodeNamesCommand.fcUnesc (op : Bytes) : OpcodeNamesCommand.Statement (.fcUnesc op) := rfl
theorem OpcodeNamesCommand.fcFrame (op : Bytes) : OpcodeNamesCommand.Statement (.fcFrame op) := rfl
theorem OpcodeNamesCommand.fcRx (op : Bytes) : OpcodeNamesCommand.Statement (.fcRx op) := rfl
theorem OpcodeNamesCommand.fcRxrst (op : Bytes) : OpcodeNamesCommand.Statement (.fcRxrst op) := rfl
theorem OpcodeNamesCommand.dlFind (op : Bytes) : OpcodeNamesCommand.Statement (.dlFind op) := rfl
theorem OpcodeNamesCommand.dsDesc (op : Bytes) : OpcodeNamesCommand.Statement (.dsDesc op) := rfl
theorem OpcodeNamesCommand.dsDescs (op : Bytes) : OpcodeNamesCommand.Statement (.dsDescs op) := rfl
theorem OpcodeNamesCommand.fecHchk (op : Bytes) : OpcodeNamesCommand.Statement (.fecHchk op) := rfl
theorem OpcodeNamesCommand.fecHdec (op : Bytes) : OpcodeNamesCommand.Statement (.fecHdec op) := rfl
theorem OpcodeNamesCommand.fecPchk (op : Bytes) : OpcodeNamesCommand.Statement (.fecPchk op) := rfl
theorem OpcodeNamesCommand.fecPdec (op : Bytes) : OpcodeNamesCommand.Statement (.fecPdec op) := rfl
theorem OpcodeNamesCommand.crRec (op : Bytes) : OpcodeNamesCommand.Statement (.crRec op) := rfl
theorem OpcodeNamesCommand.crcCalc (op : Bytes) : OpcodeNamesCommand.Statement (.crcCalc op) := rfl
theorem OpcodeNamesCommand.crcRef (op : Bytes) : OpcodeNamesCommand.Statement (.crcRef op) := rfl
theorem OpcodeNamesCommand.paFrame (op : Bytes) : OpcodeNamesCommand.Statement (.paFrame op) := rfl
theorem OpcodeNamesCommand.paCapt (op : Bytes) : OpcodeNamesCommand.Statement (.paCapt op) := rfl
theorem OpcodeNamesCommand.nop (op : Bytes) : OpcodeNamesCommand.Statement (.nop op) := rfl
theorem OpcodeNamesCommand.regRd (op : Bytes) : OpcodeNamesCommand.Statement (.regRd op) := rfl
theorem OpcodeNamesCommand.cntClr (op : Bytes) : OpcodeNamesCommand.Statement (.cntClr op) := rfl
theorem OpcodeNamesCommand.reset (op : Bytes) : OpcodeNamesCommand.Statement (.reset op) := rfl

end Sys2Proof.Laws
end

