-- ==== Sys2Proof/Tests/Slice0.lean ====
section
/-! SUPPORT. Tests on fixed values. Every expected packet and result is a vector of spec/95_test_vectors.md, named in the comment, in
configuration TC0 from the reset state unless a test says otherwise. The `witness_` theorems show, for each statement with
hypotheses, concrete values that meet them. -/

namespace Sys2Proof.Tests

-- One theorem at a time: each thread of the elaborator reserves a large stack.
set_option Elab.async false

open Sys2Proof.Machine

/-- The reset state in configuration TC0. -/
def s0 : State := State.resetWith tc0

/-- The reset state with the deframer as given, in the reference configuration, which agrees with TC0 wherever the deframer and the
registers look. -/
def sRx (st : RxState) (addr : Byte) (buf : Bytes) : State :=
  { State.reset with rx := { state := st, addr := addr, buf := buf } }

/-- The reference configuration with `RXBUF_MAX = 2` (V-RX-9). -/
def smallConfig : ValidConfig :=
  ⟨{ referenceConfig.val with rxbufMax := 2 }, by
    have h : nibbleLawful ({ referenceConfig.val with rxbufMax := 2 } : Config).nibbleTable = true := nibbleLawful_open
    unfold configValid
    rw [h]
    simp [referenceConfig, decidedConfig, gfPrimitive_two]⟩

/-- The state a step leaves, if it leaves one. -/
def after : Host.Outcome State Fault Refusal → Option State
  | .next t => some t
  | .fault _ => none
  | .refused _ => none

/-- What the response port has carried after one step on `s` with the packet `pkt` waiting. -/
def reply (s : State) (pkt : Bytes) : Option Bytes := (after (step (s.receive pkt))).map fun t => t.rspStream

/-! ### WellFormed and the configuration check -/

theorem crcCalc_replicate_wellFormed (n : Nat) : (Instr.crcCalc (List.replicate n 0#8)).WellFormed ↔ n < 2 ^ 32 := by
  simp [Instr.WellFormed, Instr.operand]

/-- R66: an operand of 2^32 bytes fits no packet. -/
theorem test_wellformed_refuses_long_operand : ¬(Instr.crcCalc (List.replicate (2 ^ 32) 0#8)).WellFormed := by
  rw [crcCalc_replicate_wellFormed]
  exact Nat.lt_irrefl _

theorem test_wellformed_admits_longest_operand : (Instr.crcCalc (List.replicate (2 ^ 32 - 1) 0#8)).WellFormed := by
  rw [crcCalc_replicate_wellFormed]
  omega

/-- R164: 0x01 is no primitive element. -/
theorem test_config_refuses_generator : configValid { tc0.val with rsGen := 0x01#8 } = false := by decide +kernel

/-- R171: a constant table obeys no encoder. -/
theorem test_config_refuses_table :
    configValid { tc0.val with givenTable := some (Vector.replicate 256 0#4) } = false := by decide +kernel

/-- R10: the ranges of `RS_FCR`, `MAX_OPERAND` and `RXBUF_MAX`. -/
theorem test_config_refuses_ranges :
    configValid { tc0.val with rsFcr := 255 } = false ∧ configValid { tc0.val with maxOperand := 0 } = false ∧
    configValid { tc0.val with maxOperand := 2 ^ 32 } = false ∧ configValid { tc0.val with rxbufMax := 0 } = false ∧
    configValid { tc0.val with rxbufMax := 65536 } = false := by
  simp [configValid]

/-- The number of set bits of a byte. -/
def popcount (b : Byte) : Nat := (List.range 8).countP fun i => b.getLsbD i

/-- R172: `ENC_H(0..15)`, and each of the 128 entries is the nibble whose code word is within distance 1 of its index. -/
theorem test_hamming_table :
    (List.range 16).map (fun v => hammingEnc (BitVec.ofNat 4 v))
      = [0x00#8, 0x71#8, 0x62#8, 0x13#8, 0x54#8, 0x25#8, 0x36#8, 0x47#8, 0x38#8, 0x49#8, 0x5A#8, 0x2B#8, 0x6C#8, 0x1D#8,
         0x0E#8, 0x7F#8] ∧
    hammingRows.length = 128 ∧
    hammingRows.zipIdx.all (fun vb => popcount (BitVec.ofNat 8 vb.2 ^^^ hammingEnc (BitVec.ofNat 4 vb.1)) ≤ 1) = true := by
  decide +kernel

/-! ### Decoding: the bytes of each packet are the "encoding" column of the vector -/

/-- V-FC-1. -/
theorem test_decode_fcEsc :
    decode [0x01#8, 0x00#8, 0x00#8, 0x00#8, 0x03#8, 0xC0#8, 0xDB#8, 0xC0#8] = .command (.fcEsc [0xC0#8, 0xDB#8, 0xC0#8]) 8 :=
    by decide

/-- V-FC-6. -/
theorem test_decode_fcUnesc :
    decode [0x02#8, 0x00#8, 0x00#8, 0x00#8, 0x06#8, 0xDB#8, 0xDC#8, 0xDB#8, 0xDD#8, 0xDB#8, 0xDC#8] = .command (.fcUnesc [0xDB#8,
    0xDC#8, 0xDB#8, 0xDD#8, 0xDB#8, 0xDC#8]) 11 := by decide

/-- V-FC-15. -/
theorem test_decode_fcFrame :
    decode [0x03#8, 0x00#8, 0x00#8, 0x00#8, 0x02#8, 0xDB#8, 0xDB#8] = .command (.fcFrame [0xDB#8, 0xDB#8]) 7 := by decide

/-- V-RX-12a. -/
theorem test_decode_fcRx :
    decode [0x04#8, 0x00#8, 0x00#8, 0x00#8, 0x01#8, 0xC0#8] = .command (.fcRx [0xC0#8]) 6 := by decide

/-- V-RX-12g. -/
theorem test_decode_fcRxrst :
    decode [0x05#8, 0x00#8, 0x00#8, 0x00#8, 0x00#8] = .command (.fcRxrst []) 5 := by decide

/-- V-DL-4. -/
theorem test_decode_dlFind :
    decode [0x10#8, 0x00#8, 0x00#8, 0x00#8, 0x09#8, 0x00#8, 0xAA#8, 0xF1#8, 0x5E#8, 0x48#8, 0xAA#8, 0xF1#8, 0x5E#8, 0x48#8] =
    .command (.dlFind [0x00#8, 0xAA#8, 0xF1#8, 0x5E#8, 0x48#8, 0xAA#8, 0xF1#8, 0x5E#8, 0x48#8]) 14 := by decide

/-- V-DS-5. -/
theorem test_decode_dsDesc :
    decode [0x20#8, 0x00#8, 0x00#8, 0x00#8, 0x0D#8, 0x00#8, 0x01#8, 0x02#8, 0x03#8, 0x04#8, 0x05#8, 0x06#8, 0x07#8, 0x08#8,
    0x09#8, 0x0A#8, 0x0B#8, 0x0C#8] = .command (.dsDesc [0x00#8, 0x01#8, 0x02#8, 0x03#8, 0x04#8, 0x05#8, 0x06#8, 0x07#8, 0x08#8,
    0x09#8, 0x0A#8, 0x0B#8, 0x0C#8]) 18 := by decide

/-- V-DS-8. -/
theorem test_decode_dsDescs :
    decode [0x21#8, 0x00#8, 0x00#8, 0x00#8, 0x05#8, 0x01#8, 0xFF#8, 0x00#8, 0xFF#8, 0xA5#8] = .command (.dsDescs [0x01#8, 0xFF#8,
    0x00#8, 0xFF#8, 0xA5#8]) 10 := by decide

/-- V-FEC-6a. -/
theorem test_decode_fecHchk :
    decode [0x30#8, 0x00#8, 0x00#8, 0x00#8, 0x0F#8, 0x01#8, 0x00#8, 0x02#8, 0x03#8, 0x04#8, 0x05#8, 0x06#8, 0x07#8, 0x08#8,
    0x09#8, 0x0A#8, 0x0B#8, 0x0C#8, 0xFB#8, 0xF7#8] = .command (.fecHchk [0x01#8, 0x00#8, 0x02#8, 0x03#8, 0x04#8, 0x05#8, 0x06#8,
    0x07#8, 0x08#8, 0x09#8, 0x0A#8, 0x0B#8, 0x0C#8, 0xFB#8, 0xF7#8]) 20 := by decide

/-- V-FEC-5. -/
theorem test_decode_fecHdec :
    decode [0x31#8, 0x00#8, 0x00#8, 0x00#8, 0x0F#8, 0x00#8, 0x01#8, 0x02#8, 0x03#8, 0x04#8, 0x15#8, 0x06#8, 0x07#8, 0x08#8,
    0x09#8, 0x0A#8, 0x0B#8, 0x0C#8, 0xFB#8, 0xF7#8] = .command (.fecHdec [0x00#8, 0x01#8, 0x02#8, 0x03#8, 0x04#8, 0x15#8, 0x06#8,
    0x07#8, 0x08#8, 0x09#8, 0x0A#8, 0x0B#8, 0x0C#8, 0xFB#8, 0xF7#8]) 20 := by decide

/-- V-FEC-10a. -/
theorem test_decode_fecPchk :
    decode [0x32#8, 0x00#8, 0x00#8, 0x00#8, 0x15#8, 0x48#8, 0x45#8, 0x4C#8, 0x4C#8, 0x4F#8, 0x7D#8, 0x1B#8, 0x08#8, 0x14#8,
    0x4E#8, 0xA3#8, 0x9D#8, 0x2E#8, 0xCC#8, 0xAA#8, 0xF2#8, 0x47#8, 0x09#8, 0xEF#8, 0x5A#8, 0x09#8] = .command (.fecPchk [0x48#8,
    0x45#8, 0x4C#8, 0x4C#8, 0x4F#8, 0x7D#8, 0x1B#8, 0x08#8, 0x14#8, 0x4E#8, 0xA3#8, 0x9D#8, 0x2E#8, 0xCC#8, 0xAA#8, 0xF2#8,
    0x47#8, 0x09#8, 0xEF#8, 0x5A#8, 0x09#8]) 26 := by decide

/-- V-FEC-11. -/
theorem test_decode_fecPdec :
    decode [0x33#8, 0x00#8, 0x00#8, 0x00#8, 0x15#8, 0x12#8, 0x45#8, 0x16#8, 0x4C#8, 0x15#8, 0x27#8, 0x1B#8, 0x52#8, 0x14#8,
    0x14#8, 0xA3#8, 0xC7#8, 0x2E#8, 0xCC#8, 0xAA#8, 0xF2#8, 0x47#8, 0x09#8, 0xEF#8, 0x5A#8, 0x53#8] = .command (.fecPdec [0x12#8,
    0x45#8, 0x16#8, 0x4C#8, 0x15#8, 0x27#8, 0x1B#8, 0x52#8, 0x14#8, 0x14#8, 0xA3#8, 0xC7#8, 0x2E#8, 0xCC#8, 0xAA#8, 0xF2#8,
    0x47#8, 0x09#8, 0xEF#8, 0x5A#8, 0x53#8]) 26 := by decide

/-- V-CR-5. -/
theorem test_decode_crRec :
    decode [0x40#8, 0x00#8, 0x00#8, 0x00#8, 0x04#8, 0xE2#8, 0xC9#8, 0xAB#8, 0xF1#8] = .command (.crRec [0xE2#8, 0xC9#8, 0xAB#8,
    0xF1#8]) 9 := by decide

/-- V-CRC-2. -/
theorem test_decode_crcCalc :
    decode [0x50#8, 0x00#8, 0x00#8, 0x00#8, 0x09#8, 0x31#8, 0x32#8, 0x33#8, 0x34#8, 0x35#8, 0x36#8, 0x37#8, 0x38#8, 0x39#8] =
    .command (.crcCalc [0x31#8, 0x32#8, 0x33#8, 0x34#8, 0x35#8, 0x36#8, 0x37#8, 0x38#8, 0x39#8]) 14 := by decide

/-- V-REF-6. -/
theorem test_decode_crcRef :
    decode [0x51#8, 0x00#8, 0x00#8, 0x00#8, 0x05#8, 0x48#8, 0x45#8, 0x4C#8, 0x4C#8, 0x4F#8] = .command (.crcRef [0x48#8, 0x45#8,
    0x4C#8, 0x4C#8, 0x4F#8]) 10 := by decide

/-- V-PA-1. -/
theorem test_decode_paFrame :
    decode [0x60#8, 0x00#8, 0x00#8, 0x00#8, 0x29#8, 0x59#8, 0x72#8, 0xD8#8, 0xB1#8, 0x0D#8, 0x04#8, 0x98#8, 0x85#8, 0x42#8,
    0xA6#8, 0x7C#8, 0xB1#8, 0x1B#8, 0xD1#8, 0xB5#8, 0x43#8, 0xD9#8, 0x33#8, 0xEB#8, 0x0A#8, 0xAE#8, 0xE6#8, 0x53#8, 0x21#8,
    0x89#8, 0xB1#8, 0x26#8, 0xCB#8, 0x75#8, 0x8F#8, 0x34#8, 0x38#8, 0x36#8, 0x27#8, 0x45#8, 0x05#8, 0x6C#8, 0x25#8, 0x00#8,
    0x7F#8, 0x55#8] = .command (.paFrame [0x59#8, 0x72#8, 0xD8#8, 0xB1#8, 0x0D#8, 0x04#8, 0x98#8, 0x85#8, 0x42#8, 0xA6#8, 0x7C#8,
    0xB1#8, 0x1B#8, 0xD1#8, 0xB5#8, 0x43#8, 0xD9#8, 0x33#8, 0xEB#8, 0x0A#8, 0xAE#8, 0xE6#8, 0x53#8, 0x21#8, 0x89#8, 0xB1#8,
    0x26#8, 0xCB#8, 0x75#8, 0x8F#8, 0x34#8, 0x38#8, 0x36#8, 0x27#8, 0x45#8, 0x05#8, 0x6C#8, 0x25#8, 0x00#8, 0x7F#8, 0x55#8]) 46 :=
    by decide

/-- V-PA-18. -/
theorem test_decode_paCapt :
    decode [0x61#8, 0x00#8, 0x00#8, 0x00#8, 0x2F#8, 0x11#8, 0x22#8, 0xAA#8, 0xF1#8, 0x5E#8, 0x48#8, 0x59#8, 0x72#8, 0xD8#8,
    0xB1#8, 0x0D#8, 0x04#8, 0x98#8, 0x85#8, 0x42#8, 0xA6#8, 0x7C#8, 0xB1#8, 0x1B#8, 0xD1#8, 0xB5#8, 0x43#8, 0xD9#8, 0x33#8,
    0xEB#8, 0x0A#8, 0xAE#8, 0xE6#8, 0x53#8, 0x21#8, 0x89#8, 0xB1#8, 0x26#8, 0xCB#8, 0x75#8, 0x8F#8, 0x34#8, 0x38#8, 0x36#8,
    0x27#8, 0x45#8, 0x05#8, 0x6C#8, 0x25#8, 0x00#8, 0x7F#8, 0x55#8] = .command (.paCapt [0x11#8, 0x22#8, 0xAA#8, 0xF1#8, 0x5E#8,
    0x48#8, 0x59#8, 0x72#8, 0xD8#8, 0xB1#8, 0x0D#8, 0x04#8, 0x98#8, 0x85#8, 0x42#8, 0xA6#8, 0x7C#8, 0xB1#8, 0x1B#8, 0xD1#8,
    0xB5#8, 0x43#8, 0xD9#8, 0x33#8, 0xEB#8, 0x0A#8, 0xAE#8, 0xE6#8, 0x53#8, 0x21#8, 0x89#8, 0xB1#8, 0x26#8, 0xCB#8, 0x75#8,
    0x8F#8, 0x34#8, 0x38#8, 0x36#8, 0x27#8, 0x45#8, 0x05#8, 0x6C#8, 0x25#8, 0x00#8, 0x7F#8, 0x55#8]) 52 := by decide

/-- V-SYS-1. -/
theorem test_decode_nop :
    decode [0x70#8, 0x00#8, 0x00#8, 0x00#8, 0x00#8] = .command (.nop []) 5 := by decide

/-- V-SYS-3.04. -/
theorem test_decode_regRd :
    decode [0x71#8, 0x00#8, 0x00#8, 0x00#8, 0x01#8, 0x04#8] = .command (.regRd [0x04#8]) 6 := by decide

/-- V-SYS-6. -/
theorem test_decode_cntClr :
    decode [0x72#8, 0x00#8, 0x00#8, 0x00#8, 0x00#8] = .command (.cntClr []) 5 := by decide

/-- V-SYS-8. -/
theorem test_decode_reset :
    decode [0x7F#8, 0x00#8, 0x00#8, 0x00#8, 0x00#8] = .command (.reset []) 5 := by decide

/-- V-ENC-00, V-ENC-06: illegal opcodes. -/
theorem test_decode_illegal :
    decode [0x00#8, 0x00#8, 0x00#8, 0x00#8, 0x00#8] = .illegalOpcode 0x00#8 5 ∧
    decode [0x06#8, 0x00#8, 0x00#8, 0x00#8, 0x00#8] = .illegalOpcode 0x06#8 5 := by decide

/-- R67: a packet whose last byte has not arrived is not looked at, not even its opcode. -/
theorem test_decode_incomplete : decode [0x00#8, 0x00#8, 0x00#8, 0x00#8, 0x01#8] = .incomplete := by decide

/-- The rows of spec/opcode_table.json give one byte, the opcode; the bits above it are 0, so `LEN = 0` (R66). -/
theorem test_table_words :
    decodeTableWord 8 0x01 = some (.fcEsc []) ∧ decodeTableWord 8 0x10 = some (.dlFind []) ∧
    decodeTableWord 8 0x7F = some (.reset []) ∧ decodeTableWord 8 0x06 = none ∧
    decodeTableWord 48 0x150100000071 = some (.regRd [0x15#8]) := by decide

/-- The word placed by `withFetchWord` is the command the next step runs, here REG.RD 0x00 (V-SYS-3.00). -/
theorem test_withFetchWord :
    (after (step (s0.withFetchWord 48 0x000100000071))).map (fun t => t.rspStream)
      = some [0x00#8, 0x00#8, 0x00#8, 0x00#8, 0x04#8, 0x4B#8, 0x49#8, 0x53#8, 0x53#8] := by decide +kernel

/-! ### One step per command -/

/-- V-FC-1. -/
theorem test_fcEsc_escapes_both :
    reply s0 [0x01#8, 0x00#8, 0x00#8, 0x00#8, 0x03#8, 0xC0#8, 0xDB#8, 0xC0#8] = some [0x00#8, 0x00#8, 0x00#8, 0x00#8, 0x06#8,
    0xDB#8, 0xDC#8, 0xDB#8, 0xDD#8, 0xDB#8, 0xDC#8] := by decide +kernel

/-- V-FC-4. -/
theorem test_fcEsc_leaves_0xDC :
    reply s0 [0x01#8, 0x00#8, 0x00#8, 0x00#8, 0x02#8, 0xDB#8, 0xDC#8] = some [0x00#8, 0x00#8, 0x00#8, 0x00#8, 0x03#8, 0xDB#8,
    0xDD#8, 0xDC#8] := by decide +kernel

/-- V-FC-6. -/
theorem test_fcUnesc_inverts :
    reply s0 [0x02#8, 0x00#8, 0x00#8, 0x00#8, 0x06#8, 0xDB#8, 0xDC#8, 0xDB#8, 0xDD#8, 0xDB#8, 0xDC#8] = some [0x00#8, 0x00#8,
    0x00#8, 0x00#8, 0x03#8, 0xC0#8, 0xDB#8, 0xC0#8] := by decide +kernel

/-- V-FC-10. -/
theorem test_fcUnesc_first_error_wins :
    reply s0 [0x02#8, 0x00#8, 0x00#8, 0x00#8, 0x03#8, 0xDB#8, 0x41#8, 0xDB#8] = some [0x91#8, 0x00#8, 0x00#8, 0x00#8, 0x00#8] :=
    by decide +kernel

/-- V-FC-15. -/
theorem test_fcFrame_address_not_escaped :
    reply s0 [0x03#8, 0x00#8, 0x00#8, 0x00#8, 0x02#8, 0xDB#8, 0xDB#8] = some [0x00#8, 0x00#8, 0x00#8, 0x00#8, 0x05#8, 0xC0#8,
    0xDB#8, 0xDB#8, 0xDD#8, 0xC0#8] := by decide +kernel

/-- V-FC-16. -/
theorem test_fcFrame_refuses_sentinel_address :
    reply s0 [0x03#8, 0x00#8, 0x00#8, 0x00#8, 0x02#8, 0xC0#8, 0x01#8] = some [0x82#8, 0x00#8, 0x00#8, 0x00#8, 0x00#8] :=
    by decide +kernel

/-- V-DL-4. -/
theorem test_dlFind_adjacent_markers :
    reply s0 [0x10#8, 0x00#8, 0x00#8, 0x00#8, 0x09#8, 0x00#8, 0xAA#8, 0xF1#8, 0x5E#8, 0x48#8, 0xAA#8, 0xF1#8, 0x5E#8, 0x48#8] =
    some [0x00#8, 0x00#8, 0x00#8, 0x00#8, 0x0C#8, 0x00#8, 0x00#8, 0x00#8, 0x01#8, 0x00#8, 0x00#8, 0x00#8, 0x05#8, 0xFF#8, 0xFF#8,
    0xFF#8, 0xFF#8] := by decide +kernel

/-- V-DL-5. -/
theorem test_dlFind_false_start :
    reply s0 [0x10#8, 0x00#8, 0x00#8, 0x00#8, 0x05#8, 0xAA#8, 0xAA#8, 0xF1#8, 0x5E#8, 0x48#8] = some [0x00#8, 0x00#8, 0x00#8,
    0x00#8, 0x08#8, 0x00#8, 0x00#8, 0x00#8, 0x01#8, 0xFF#8, 0xFF#8, 0xFF#8, 0xFF#8] := by decide +kernel

/-- V-DS-5. -/
theorem test_dsDesc_thirteen_bytes :
    reply s0 [0x20#8, 0x00#8, 0x00#8, 0x00#8, 0x0D#8, 0x00#8, 0x01#8, 0x02#8, 0x03#8, 0x04#8, 0x05#8, 0x06#8, 0x07#8, 0x08#8,
    0x09#8, 0x0A#8, 0x0B#8, 0x0C#8] = some [0x00#8, 0x00#8, 0x00#8, 0x00#8, 0x0D#8, 0x0F#8, 0x81#8, 0x12#8, 0xA2#8, 0x35#8,
    0xC7#8, 0x54#8, 0xE4#8, 0x7B#8, 0x0D#8, 0x9E#8, 0x2E#8, 0xB9#8] := by decide +kernel

/-- V-DS-8. -/
theorem test_dsDescs_state_all_ones :
    reply s0 [0x21#8, 0x00#8, 0x00#8, 0x00#8, 0x05#8, 0x01#8, 0xFF#8, 0x00#8, 0xFF#8, 0xA5#8] = some [0x00#8, 0x00#8, 0x00#8,
    0x00#8, 0x03#8, 0xFF#8, 0x70#8, 0x20#8] := by decide +kernel

/-- V-DS-15. -/
theorem test_dsDescs_refuses_wide_state :
    reply s0 [0x21#8, 0x00#8, 0x00#8, 0x00#8, 0x03#8, 0x02#8, 0x00#8, 0x00#8] = some [0x82#8, 0x00#8, 0x00#8, 0x00#8, 0x00#8] :=
    by decide +kernel

/-- V-FEC-6a. -/
theorem test_fecHchk_two_errors_fail :
    reply s0 [0x30#8, 0x00#8, 0x00#8, 0x00#8, 0x0F#8, 0x01#8, 0x00#8, 0x02#8, 0x03#8, 0x04#8, 0x05#8, 0x06#8, 0x07#8, 0x08#8,
    0x09#8, 0x0A#8, 0x0B#8, 0x0C#8, 0xFB#8, 0xF7#8] = some [0x00#8, 0x00#8, 0x00#8, 0x00#8, 0x01#8, 0x00#8] := by decide +kernel

/-- V-FEC-5. -/
theorem test_fecHdec_corrects_one :
    reply s0 [0x31#8, 0x00#8, 0x00#8, 0x00#8, 0x0F#8, 0x00#8, 0x01#8, 0x02#8, 0x03#8, 0x04#8, 0x15#8, 0x06#8, 0x07#8, 0x08#8,
    0x09#8, 0x0A#8, 0x0B#8, 0x0C#8, 0xFB#8, 0xF7#8] = some [0x00#8, 0x00#8, 0x00#8, 0x00#8, 0x0E#8, 0x00#8, 0x01#8, 0x02#8,
    0x03#8, 0x04#8, 0x05#8, 0x06#8, 0x07#8, 0x08#8, 0x09#8, 0x0A#8, 0x0B#8, 0x0C#8, 0x01#8] := by decide +kernel

/-- V-FEC-6b. -/
theorem test_fecHdec_two_errors_raise :
    reply s0 [0x31#8, 0x00#8, 0x00#8, 0x00#8, 0x0F#8, 0x01#8, 0x00#8, 0x02#8, 0x03#8, 0x04#8, 0x05#8, 0x06#8, 0x07#8, 0x08#8,
    0x09#8, 0x0A#8, 0x0B#8, 0x0C#8, 0xFB#8, 0xF7#8] = some [0xA0#8, 0x00#8, 0x00#8, 0x00#8, 0x00#8] := by decide +kernel

/-- V-FEC-10a. -/
theorem test_fecPchk_codeword :
    reply s0 [0x32#8, 0x00#8, 0x00#8, 0x00#8, 0x15#8, 0x48#8, 0x45#8, 0x4C#8, 0x4C#8, 0x4F#8, 0x7D#8, 0x1B#8, 0x08#8, 0x14#8,
    0x4E#8, 0xA3#8, 0x9D#8, 0x2E#8, 0xCC#8, 0xAA#8, 0xF2#8, 0x47#8, 0x09#8, 0xEF#8, 0x5A#8, 0x09#8] = some [0x00#8, 0x00#8,
    0x00#8, 0x00#8, 0x01#8, 0x01#8] := by decide +kernel

/-- V-FEC-11. -/
theorem test_fecPdec_corrects_eight :
    reply s0 [0x33#8, 0x00#8, 0x00#8, 0x00#8, 0x15#8, 0x12#8, 0x45#8, 0x16#8, 0x4C#8, 0x15#8, 0x27#8, 0x1B#8, 0x52#8, 0x14#8,
    0x14#8, 0xA3#8, 0xC7#8, 0x2E#8, 0xCC#8, 0xAA#8, 0xF2#8, 0x47#8, 0x09#8, 0xEF#8, 0x5A#8, 0x53#8] = some [0x00#8, 0x00#8,
    0x00#8, 0x00#8, 0x06#8, 0x48#8, 0x45#8, 0x4C#8, 0x4C#8, 0x4F#8, 0x08#8] := by decide +kernel

/-- V-FEC-15. -/
theorem test_fecPdec_nine_errors_raise :
    reply s0 [0x33#8, 0x00#8, 0x00#8, 0x00#8, 0x10#8, 0x01#8, 0x01#8, 0x01#8, 0x01#8, 0x01#8, 0x01#8, 0x01#8, 0x01#8, 0x01#8,
    0x00#8, 0x00#8, 0x00#8, 0x00#8, 0x00#8, 0x00#8, 0x00#8] = some [0xA0#8, 0x00#8, 0x00#8, 0x00#8, 0x00#8] := by decide +kernel

/-- V-CR-5. -/
theorem test_crRec_one_bit_in_every_byte :
    reply s0 [0x40#8, 0x00#8, 0x00#8, 0x00#8, 0x04#8, 0xE2#8, 0xC9#8, 0xAB#8, 0xF1#8] = some [0x00#8, 0x00#8, 0x00#8, 0x00#8,
    0x02#8, 0x29#8, 0xB1#8] := by decide +kernel

/-- V-CR-6. -/
theorem test_crRec_two_bits_wrong :
    reply s0 [0x40#8, 0x00#8, 0x00#8, 0x00#8, 0x04#8, 0x61#8, 0x49#8, 0x2B#8, 0x71#8] = some [0x00#8, 0x00#8, 0x00#8, 0x00#8,
    0x02#8, 0x19#8, 0xB1#8] := by decide +kernel

/-- V-CRC-2. -/
theorem test_crcCalc_check_value :
    reply s0 [0x50#8, 0x00#8, 0x00#8, 0x00#8, 0x09#8, 0x31#8, 0x32#8, 0x33#8, 0x34#8, 0x35#8, 0x36#8, 0x37#8, 0x38#8, 0x39#8] =
    some [0x00#8, 0x00#8, 0x00#8, 0x00#8, 0x02#8, 0x29#8, 0xB1#8] := by decide +kernel

/-- V-REF-6. -/
theorem test_crcRef_prefix_first :
    reply s0 [0x51#8, 0x00#8, 0x00#8, 0x00#8, 0x05#8, 0x48#8, 0x45#8, 0x4C#8, 0x4C#8, 0x4F#8] = some [0x00#8, 0x00#8, 0x00#8,
    0x00#8, 0x02#8, 0xC5#8, 0x0F#8] := by decide +kernel

/-- V-PA-1. -/
theorem test_paFrame_clean_frame :
    reply s0 [0x60#8, 0x00#8, 0x00#8, 0x00#8, 0x29#8, 0x59#8, 0x72#8, 0xD8#8, 0xB1#8, 0x0D#8, 0x04#8, 0x98#8, 0x85#8, 0x42#8,
    0xA6#8, 0x7C#8, 0xB1#8, 0x1B#8, 0xD1#8, 0xB5#8, 0x43#8, 0xD9#8, 0x33#8, 0xEB#8, 0x0A#8, 0xAE#8, 0xE6#8, 0x53#8, 0x21#8,
    0x89#8, 0xB1#8, 0x26#8, 0xCB#8, 0x75#8, 0x8F#8, 0x34#8, 0x38#8, 0x36#8, 0x27#8, 0x45#8, 0x05#8, 0x6C#8, 0x25#8, 0x00#8,
    0x7F#8, 0x55#8] = some [0x00#8, 0x00#8, 0x00#8, 0x00#8, 0x34#8, 0x08#8, 0x00#8, 0x00#8, 0x05#8, 0x00#8, 0x00#8, 0x00#8,
    0x00#8, 0x53#8, 0x49#8, 0x4C#8, 0x56#8, 0x45#8, 0x52#8, 0x53#8, 0x41#8, 0x54#8, 0x2D#8, 0x48#8, 0x44#8, 0x52#8, 0xD1#8,
    0xB5#8, 0xAE#8, 0xE6#8, 0x53#8, 0x21#8, 0x89#8, 0xB1#8, 0x26#8, 0xCB#8, 0x75#8, 0x8F#8, 0x34#8, 0x38#8, 0x36#8, 0x27#8,
    0x45#8, 0x05#8, 0x6C#8, 0x25#8, 0x00#8, 0x7F#8, 0xC5#8, 0x0F#8, 0xC5#8, 0x0F#8, 0x48#8, 0x45#8, 0x4C#8, 0x4C#8, 0x4F#8] :=
    by decide +kernel

/-- V-PA-3. -/
theorem test_paFrame_short_frame :
    reply s0 [0x60#8, 0x00#8, 0x00#8, 0x00#8, 0x0A#8, 0x01#8, 0x02#8, 0x03#8, 0x04#8, 0x05#8, 0x06#8, 0x07#8, 0x08#8, 0x09#8,
    0x0A#8] = some [0xB0#8, 0x00#8, 0x00#8, 0x00#8, 0x00#8] := by decide +kernel

/-- V-PA-18. -/
theorem test_paCapt_offset_of_a_frame :
    reply s0 [0x61#8, 0x00#8, 0x00#8, 0x00#8, 0x2F#8, 0x11#8, 0x22#8, 0xAA#8, 0xF1#8, 0x5E#8, 0x48#8, 0x59#8, 0x72#8, 0xD8#8,
    0xB1#8, 0x0D#8, 0x04#8, 0x98#8, 0x85#8, 0x42#8, 0xA6#8, 0x7C#8, 0xB1#8, 0x1B#8, 0xD1#8, 0xB5#8, 0x43#8, 0xD9#8, 0x33#8,
    0xEB#8, 0x0A#8, 0xAE#8, 0xE6#8, 0x53#8, 0x21#8, 0x89#8, 0xB1#8, 0x26#8, 0xCB#8, 0x75#8, 0x8F#8, 0x34#8, 0x38#8, 0x36#8,
    0x27#8, 0x45#8, 0x05#8, 0x6C#8, 0x25#8, 0x00#8, 0x7F#8, 0x55#8] = some [0x00#8, 0x00#8, 0x00#8, 0x00#8, 0x44#8, 0x00#8,
    0x00#8, 0x00#8, 0x01#8, 0x08#8, 0x00#8, 0x00#8, 0x05#8, 0x00#8, 0x00#8, 0x00#8, 0x02#8, 0x53#8, 0x49#8, 0x4C#8, 0x56#8,
    0x45#8, 0x52#8, 0x53#8, 0x41#8, 0x54#8, 0x2D#8, 0x48#8, 0x44#8, 0x52#8, 0xD1#8, 0xB5#8, 0xAE#8, 0xE6#8, 0x53#8, 0x21#8,
    0x89#8, 0xB1#8, 0x26#8, 0xCB#8, 0x75#8, 0x8F#8, 0x34#8, 0x38#8, 0x36#8, 0x27#8, 0x45#8, 0x05#8, 0x6C#8, 0x25#8, 0x00#8,
    0x7F#8, 0xC5#8, 0x0F#8, 0xC5#8, 0x0F#8, 0x48#8, 0x45#8, 0x4C#8, 0x4C#8, 0x4F#8, 0x00#8, 0x00#8, 0x00#8, 0x01#8, 0x00#8,
    0x00#8, 0x00#8, 0x00#8, 0x00#8, 0x00#8, 0x00#8, 0x00#8] := by decide +kernel

/-- V-PA-16. -/
theorem test_paCapt_two_drops :
    reply s0 [0x61#8, 0x00#8, 0x00#8, 0x00#8, 0x08#8, 0xAA#8, 0xF1#8, 0x5E#8, 0x48#8, 0xAA#8, 0xF1#8, 0x5E#8, 0x48#8] = some
    [0x00#8, 0x00#8, 0x00#8, 0x00#8, 0x1A#8, 0x00#8, 0x00#8, 0x00#8, 0x00#8, 0x00#8, 0x00#8, 0x00#8, 0x00#8, 0x00#8, 0x00#8,
    0x00#8, 0x00#8, 0x00#8, 0x00#8, 0x00#8, 0x02#8, 0x00#8, 0x00#8, 0x00#8, 0x00#8, 0xB0#8, 0x00#8, 0x00#8, 0x00#8, 0x04#8,
    0xB0#8] := by decide +kernel

/-- V-SYS-1. -/
theorem test_nop_ok :
    reply s0 [0x70#8, 0x00#8, 0x00#8, 0x00#8, 0x00#8] = some [0x00#8, 0x00#8, 0x00#8, 0x00#8, 0x00#8] := by decide +kernel

/-- V-SYS-2. -/
theorem test_nop_bad_length :
    reply s0 [0x70#8, 0x00#8, 0x00#8, 0x00#8, 0x01#8, 0x00#8] = some [0x81#8, 0x00#8, 0x00#8, 0x00#8, 0x00#8] := by decide +kernel

/-- V-SYS-3.04. -/
theorem test_regRd_param :
    reply s0 [0x71#8, 0x00#8, 0x00#8, 0x00#8, 0x01#8, 0x04#8] = some [0x00#8, 0x00#8, 0x00#8, 0x00#8, 0x04#8, 0x00#8, 0x00#8,
    0x02#8, 0x00#8] := by decide +kernel

/-- V-SYS-4b. -/
theorem test_regRd_unassigned :
    reply s0 [0x71#8, 0x00#8, 0x00#8, 0x00#8, 0x01#8, 0x16#8] = some [0x82#8, 0x00#8, 0x00#8, 0x00#8, 0x00#8] := by decide +kernel

/-- V-RX-1, last byte: the closing sentinel delivers the frame, opens the next one and counts it. -/
theorem test_fcRx_delivers :
    after (exec (.fcRx [0xC0#8]) (sRx .data 0x00#8 [0x01#8, 0xC0#8, 0xDB#8, 0x02#8])) = some
      { sRx .addr 0x00#8 [] with
        lastSts := 0x01#8
        cnt := { Counters.zero with rxFrames := 1#32 }
        rspStream := [0x01#8, 0x00#8, 0x00#8, 0x00#8, 0x05#8, 0x00#8, 0x01#8, 0xC0#8, 0xDB#8, 0x02#8] } := by decide +kernel

/-- V-RX-9, last byte: `RXBUF_MAX = 2`, the third payload byte overflows. -/
theorem test_fcRx_overflows :
    after (exec (.fcRx [0x03#8]) { sRx .data 0x07#8 [0x01#8, 0x02#8] with cfg := smallConfig }) = some
      { sRx .hunt 0x07#8 [] with
        cfg := smallConfig
        lastSts := 0x92#8
        cnt := { Counters.zero with rxErrors := 1#32 }
        rspStream := [0x92#8, 0x00#8, 0x00#8, 0x00#8, 0x00#8] } := by decide +kernel

/-- R104: FC.RXRST keeps the address byte. -/
theorem test_fcRxrst_keeps_address :
    after (exec (.fcRxrst []) (sRx .esc 0x05#8 [0x41#8])) = some
      { sRx .hunt 0x05#8 [] with rspStream := [0x00#8, 0x00#8, 0x00#8, 0x00#8, 0x00#8] } := by decide +kernel

/-- V-RX-12d: STATUS shows `RX_LEN`, `LAST_STS` and `RX_STATE`; the read itself writes no state. -/
theorem test_regRd_status :
    after (exec (.regRd [0x02#8]) (sRx .data 0x00#8 [0x01#8])) = some
      { sRx .data 0x00#8 [0x01#8] with
        rspStream := [0x00#8, 0x00#8, 0x00#8, 0x00#8, 0x04#8, 0x00#8, 0x01#8, 0x00#8, 0x02#8] } := by decide +kernel

/-- R218: CNT.CLR clears the counters and leaves a frame in progress alone. -/
theorem test_cntClr_keeps_deframer :
    after (exec (.cntClr []) { sRx .data 0x07#8 [0x41#8] with cnt := { Counters.zero with rxErrors := 3#32, clean := 2#32 } }) = some
      { sRx .data 0x07#8 [0x41#8] with rspStream := [0x00#8, 0x00#8, 0x00#8, 0x00#8, 0x00#8] } := by decide +kernel

/-- R219: RESET puts the whole persistent state back, the address byte included. -/
theorem test_reset_clears_all :
    after (exec (.reset []) { sRx .esc 0x07#8 [0x41#8] with lastSts := 0x82#8, cnt := { Counters.zero with cmdErrors := 9#32 } }) = some
      { State.reset with rspStream := [0x00#8, 0x00#8, 0x00#8, 0x00#8, 0x00#8] } := by decide +kernel

/-- V-SYS-9: RESET with an operand is BAD_LENGTH and resets nothing. -/
theorem test_reset_bad_length :
    after (exec (.reset [0x00#8]) (sRx .data 0x07#8 [0x41#8])) = some
      { sRx .data 0x07#8 [0x41#8] with
        lastSts := 0x81#8
        cnt := { Counters.zero with cmdErrors := 1#32 }
        rspStream := [0x81#8, 0x00#8, 0x00#8, 0x00#8, 0x00#8] } := by decide +kernel

/-! ### Witnesses: concrete values that meet the hypotheses of each statement of Certificates/Slice0/Obligations.lean -/

/-- Frame A of spec/95_test_vectors.md section 2.7. -/
def frameA : Bytes :=
  [0x59#8, 0x72#8, 0xD8#8, 0xB1#8, 0x0D#8, 0x04#8, 0x98#8, 0x85#8, 0x42#8, 0xA6#8, 0x7C#8, 0xB1#8, 0x1B#8, 0xD1#8, 0xB5#8]
  ++ [0x43#8, 0xD9#8, 0x33#8, 0xEB#8, 0x0A#8, 0xAE#8, 0xE6#8, 0x53#8, 0x21#8, 0x89#8, 0xB1#8, 0x26#8, 0xCB#8, 0x75#8]
  ++ [0x8F#8, 0x34#8, 0x38#8, 0x36#8, 0x27#8, 0x45#8, 0x05#8, 0x6C#8, 0x25#8, 0x00#8, 0x7F#8, 0x55#8]

/-- The header codeword `HC` of section 2.5. -/
def hc : Bytes :=
  [0x00#8, 0x01#8, 0x02#8, 0x03#8, 0x04#8, 0x05#8, 0x06#8, 0x07#8, 0x08#8, 0x09#8, 0x0A#8, 0x0B#8, 0x0C#8, 0xFB#8, 0xF7#8]

/-- `n` zero bytes. -/
def zeros (n : Nat) : Bytes := List.replicate n 0x00#8

theorem sRx_inv : (sRx .data 0x05#8 [0x41#8]).Inv where
  bufBound := by decide
  bufEmpty h := by rcases h with h | h <;> cases h
  lastAssigned := by decide
  posBound := by decide
  packets := ⟨[], rfl, by simp⟩

theorem sRx_receive_inv : ((sRx .data 0x05#8 [0x41#8]).receive [0x70#8, 0x00#8, 0x00#8, 0x00#8, 0x00#8]).Inv where
  bufBound := by decide
  bufEmpty h := by rcases h with h | h <;> cases h
  lastAssigned := by decide
  posBound := by decide
  packets := ⟨[], rfl, by simp⟩

theorem lawL1_hamming : lawL1 hammingTable hammingEnc := by unfold lawL1; decide +kernel

theorem lawL2_hamming : lawL2 hammingTable hammingEnc := by unfold lawL2; decide +kernel

theorem witness_DecodeInvertsEncode : (Instr.dsDescs [0x01#8, 0xF0#8, 0x12#8]).WellFormed := by decide

theorem witness_EncodeInvertsDecode :
    decode [0x71#8, 0x00#8, 0x00#8, 0x00#8, 0x01#8, 0x15#8, 0x70#8] = .command (.regRd [0x15#8]) 6 := by decide

/-- A NOP packet behind one byte that has been read. -/
def sNop : State := { State.reset with cmdStream := [0xAA#8, 0x70#8, 0x00#8, 0x00#8, 0x00#8, 0x00#8], cmdPos := 1 }

theorem witness_StepRunsTheDecodedCommand :
    decode (sNop.cmdStream.drop sNop.cmdPos) = .command (.nop []) 5 ∧ (Instr.nop []).WellFormed := by decide

theorem witness_IllegalOpcodeIsAnswered :
    (listedIllegal 0x00#8 ∧ (State.reset.receive [0x00#8, 0x00#8, 0x00#8, 0x00#8, 0x00#8]).cmdStream.drop 0
        = 0x00#8 :: u32be (BitVec.ofNat 32 ([] : Bytes).length) ++ [] ++ []) ∧
    (listedIllegal 0xFF#8 ∧ (State.reset.receive [0xFF#8, 0x00#8, 0x00#8, 0x00#8, 0x01#8, 0x07#8, 0x70#8]).cmdStream.drop 0
        = 0xFF#8 :: u32be (BitVec.ofNat 32 [0x07#8].length) ++ [0x07#8] ++ [0x70#8]) := by
  unfold listedIllegal
  decide

theorem witness_IncompletePacketWaits :
    State.reset.pending.length < 5 ∧
    (¬(State.reset.receive [0x71#8, 0x00#8, 0x00#8, 0x00#8, 0x01#8]).pending.length < 5 ∧
      (State.reset.receive [0x71#8, 0x00#8, 0x00#8, 0x00#8, 0x01#8]).pending.length
        < 5 + announcedLen (State.reset.receive [0x71#8, 0x00#8, 0x00#8, 0x00#8, 0x01#8]).pending) := by decide

theorem witness_EveryPacketIsAnsweredOnce : ∃ t, step sNop = .next t := ⟨_, rfl⟩

theorem witness_ResponseLengthFieldIsTrue :
    (sRx .data 0x05#8 [0x41#8]).Inv ∧ (sRx .data 0x05#8 [0x41#8]).cfg.val.maxOperand ≤ 2 ^ 31 - 1 ∧
    ∃ t, exec (.fcRx [0xC0#8]) (sRx .data 0x05#8 [0x41#8]) = .next t := ⟨sRx_inv, by decide, _, rfl⟩

theorem witness_InvariantKeptByEveryStep :
    ((sRx .data 0x05#8 [0x41#8]).receive [0x70#8, 0x00#8, 0x00#8, 0x00#8, 0x00#8]).Inv ∧
    ∃ t, step ((sRx .data 0x05#8 [0x41#8]).receive [0x70#8, 0x00#8, 0x00#8, 0x00#8, 0x00#8]) = .next t :=
  ⟨sRx_receive_inv, _, rfl⟩

theorem witness_BothResetsGiveTheResetValues : configValid tc0.val = true := tc0.property

/-- An invalid configuration and a valid one. -/
theorem witness_OnlySpecConfigurationsRun :
    configValid { tc0.val with rsFcr := 255 } = false ∧ configValid tc0.val = true :=
  ⟨by simp [configValid], tc0.property⟩

theorem witness_StepKeepsConfigurationAndPorts : ∃ t, step sNop = .next t := ⟨_, rfl⟩

theorem witness_OnlyDeframerCommandsWriteTheDeframer :
    (∃ t, exec (.paFrame []) (sRx .esc 0x05#8 [0x41#8]) = .next t) ∧
    ∀ op, Instr.paFrame [] ≠ .fcRx op ∧ Instr.paFrame [] ≠ .fcRxrst op ∧ Instr.paFrame [] ≠ .reset op :=
  ⟨⟨_, rfl⟩, by simp⟩

theorem witness_AddressIsWrittenOnlyOnAddrToData :
    (∃ t, exec (.fcRxrst []) (sRx .esc 0x05#8 [0x41#8]) = .next t ∧ ∀ op, Instr.fcRxrst [] ≠ .reset op) ∧
    ∃ t, (sRx .addr 0x05#8 []).rx.state = .addr ∧ exec (.fcRx [0xDB#8]) (sRx .addr 0x05#8 []) = .next t ∧ t.rx.state = .data :=
  ⟨⟨_, rfl, by simp⟩, _, rfl, rfl, by decide⟩

/-- The status a command leaves in `LAST_STS`. -/
def lastOf (i : Instr) (s : State) : Option Byte := (after (exec i s)).map fun t => t.lastSts

/-- One command for each counter, the BAD_LENGTH form of CNT.CLR among them, and an illegal opcode. -/
theorem witness_CountersCountTheirEvents :
    (Instr.cntClr [0x00#8] ≠ .cntClr [] ∧ Instr.cntClr [0x00#8] ≠ .reset [] ∧
      lastOf (.cntClr [0x00#8]) State.reset = some 0x81#8) ∧
    lastOf (.fcRx [0xC0#8]) (sRx .data 0x05#8 []) = some 0x01#8 ∧
    lastOf (.fcRx [0xC0#8]) (sRx .esc 0x05#8 []) = some 0x90#8 ∧
    (after (exec (.paCapt (marker ++ frameA ++ marker ++ zeros 36 ++ marker)) s0)).isSome = true ∧
    (locatedFrames tc0.val (.paCapt (marker ++ frameA ++ marker ++ zeros 36 ++ marker))).map
      (fun f => (f.isClean, f.isDegraded, f.isDrop)) = [(true, false, false), (false, true, false), (false, false, true)] ∧
    (State.reset.receive [0x06#8, 0x00#8, 0x00#8, 0x00#8, 0x00#8]).fetch = .illegalOpcode 0x06#8 5 := by
  decide +kernel

theorem witness_LastStatusIsTheResponseStatus :
    (sNop.fetch = .command (.nop []) 5 ∧ isRegRd (.nop []) = false ∧ ∃ t, step sNop = .next t) ∧
    ((State.reset.receive [0x71#8, 0x00#8, 0x00#8, 0x00#8, 0x00#8]).fetch = .command (.regRd []) 5 ∧
      isRegRd (.regRd []) = true ∧ ∃ t, step (State.reset.receive [0x71#8, 0x00#8, 0x00#8, 0x00#8, 0x00#8]) = .next t) ∧
    ((State.reset.receive [0x06#8, 0x00#8, 0x00#8, 0x00#8, 0x00#8]).fetch = .illegalOpcode 0x06#8 5 ∧
      ∃ t, step (State.reset.receive [0x06#8, 0x00#8, 0x00#8, 0x00#8, 0x00#8]) = .next t) :=
  ⟨⟨by decide, rfl, _, rfl⟩, ⟨by decide, rfl, _, rfl⟩, by decide, _, rfl⟩

/-- One command for each way to end in an error. -/
theorem witness_ErrorsLeaveOnlyTheListedChanges :
    lastOf (.cntClr [0x00#8]) State.reset = some 0x81#8 ∧ lastOf (.fcFrame [0xC0#8]) State.reset = some 0x82#8 ∧
    lastOf (.fcRx [0xC0#8]) (sRx .esc 0x05#8 []) = some 0x90#8 ∧ lastOf (.fcRx [0x41#8]) (sRx .esc 0x05#8 []) = some 0x91#8 ∧
    lastOf (.fcRx [0x41#8]) { sRx .data 0x05#8 [0x41#8, 0x42#8] with cfg := smallConfig } = some 0x92#8 ∧
    lastOf (.fcUnesc [0xDB#8]) State.reset = some 0x90#8 ∧ lastOf (.fcUnesc [0xDB#8, 0x41#8]) State.reset = some 0x91#8 ∧
    lastOf (.fecHdec (zeros 13 ++ [0x01#8, 0x01#8])) State.reset = some 0xA0#8 ∧
    lastOf (.paFrame (zeros 35)) State.reset = some 0xB0#8 ∧ lastOf (.paFrame (zeros 276)) State.reset = some 0xB1#8 ∧
    (after (exec (.regRd [0x06#8]) State.reset)).isSome = true ∧
    (State.reset.receive [0x06#8, 0x00#8, 0x00#8, 0x00#8, 0x00#8]).fetch = .illegalOpcode 0x06#8 5 := by decide +kernel

theorem witness_ResponseDependsOnOperandAndConfiguration :
    isFcRx (.paFrame []) = false ∧ isRegRd (.paFrame []) = false ∧ (sRx .esc 0x05#8 [0x41#8]).cfg = State.reset.cfg ∧
    (∃ t, exec (.paFrame []) (sRx .esc 0x05#8 [0x41#8]) = .next t) ∧ (∃ t, exec (.paFrame []) State.reset = .next t) ∧
    isPa (.paFrame []) = true := ⟨rfl, rfl, rfl, ⟨_, rfl⟩, ⟨_, rfl⟩, rfl⟩

/-- All counters at their greatest value. -/
def full : Counters :=
  { clean := 0xFFFFFFFF#32, degraded := 0xFFFFFFFF#32, dropped := 0xFFFFFFFF#32, rxFrames := 0xFFFFFFFF#32,
    rxErrors := 0xFFFFFFFF#32, cmdErrors := 0xFFFFFFFF#32 }

theorem witness_CountersWrap :
    ({ State.reset with cnt := full } : State).cnt.cmdErrors = 0xFFFFFFFF#32 ∧
    ({ sRx .data 0x05#8 [] with cnt := full } : State).rx.state = .data ∧
    ({ sRx .esc 0x05#8 [] with cnt := full } : State).rx.state = .esc ∧
    (frameA.length ≤ ({ s0 with cnt := full } : State).cfg.val.maxOperand ∧
      decodeFrame tc0.val frameA 0 = .record (decodeBody tc0.val frameA 0) ∧
      flagsClean (decodeBody tc0.val frameA 0).flags = true) ∧
    ((zeros 36).length ≤ ({ s0 with cnt := full } : State).cfg.val.maxOperand ∧
      decodeFrame tc0.val (zeros 36) 0 = .record (decodeBody tc0.val (zeros 36) 0) ∧
      flagsClean (decodeBody tc0.val (zeros 36) 0).flags = false) :=
  ⟨rfl, rfl, rfl, ⟨by decide +kernel, by rfl, by decide +kernel⟩, by decide +kernel, by rfl, by decide +kernel⟩

theorem witness_IllegalLengthIsBadLength :
    (¬legalLen State.reset.cfg.val (.fcFrame []) ∧ isRegRd (.fcFrame []) = false) ∧
    ¬legalLen State.reset.cfg.val (.fecPchk (zeros 15)) ∧ ¬legalLen State.reset.cfg.val (.fecPchk (zeros 256)) ∧
    ¬legalLen State.reset.cfg.val (.regRd []) ∧
    (legalLen State.reset.cfg.val (.fecPchk (zeros 16)) ∧ ∃ t, exec (.fecPchk (zeros 16)) State.reset = .next t) ∧
    legalLen State.reset.cfg.val (.fecPchk (zeros 255)) := by
  unfold legalLen
  exact ⟨by decide, by decide +kernel, by decide +kernel, by decide, ⟨by decide +kernel, _, rfl⟩, by decide +kernel⟩

theorem witness_UnescCompletes :
    (unescape [0xDB#8, 0xDC#8] = .ok [0xC0#8] ∧ unescape [0xDB#8] = .error .incompleteEscape ∧
      unescape [0xDB#8, 0xDB#8] = .error .invalidEscape) ∧
    [0xDB#8, 0xDC#8].length ≤ State.reset.cfg.val.maxOperand ∧ (escape [0xC0#8]).length ≤ State.reset.cfg.val.maxOperand := by
  refine ⟨⟨by rfl, by rfl, by rfl⟩, by decide, by decide⟩

/-- For EscCompletes, FindCompletes, DescrambleCompletes and PaCaptCompletes, which hold for every operand of legal length. -/
theorem witness_operandLengths :
    ([] : Bytes).length ≤ State.reset.cfg.val.maxOperand ∧ frameA.length ≤ State.reset.cfg.val.maxOperand := by decide +kernel

theorem witness_UnescapeReportsTheFirstError :
    unescape [0xC0#8, 0xDB#8, 0xDC#8, 0x41#8] = .ok [0xC0#8, 0xC0#8, 0x41#8] ∧
    (0xDB#8 : Byte) ≠ 0xDC#8 ∧ (0xDB#8 : Byte) ≠ 0xDD#8 ∧ (0xDB#8 : Byte) ∉ [0xC0#8, 0xDC#8] :=
  ⟨by rfl, by decide, by decide, by decide⟩

theorem witness_EscapeIsMinimal : (escape [0x41#8, 0xC0#8])[1]? = some 0xDB#8 := by decide

theorem witness_FrameCompletes :
    ([] : Bytes).length + 1 ≤ State.reset.cfg.val.maxOperand ∧ (0xC1#8 : Byte) ≠ 0xC0#8 := by decide

theorem witness_DeframerOutsideAFrame :
    State.reset.rx.state = .hunt ∧ (sRx .addr 0x05#8 []).rx.state = .addr := by decide

/-- The buffer one byte short of `RXBUF_MAX = 2`, and full. -/
theorem witness_DeframerInsideAFrame :
    ((sRx .data 0x05#8 [0x41#8]).rx.state = .data ∧ (0x41#8 : Byte) ≠ 0xC0#8 ∧ (0x41#8 : Byte) ≠ 0xDB#8) ∧
    (sRx .esc 0x05#8 [0x41#8]).rx.state = .esc ∧
    ({ sRx .data 0x05#8 [0x41#8] with cfg := smallConfig } : State).rx.buf.length < smallConfig.val.rxbufMax ∧
    smallConfig.val.rxbufMax ≤ ({ sRx .esc 0x05#8 [0x41#8, 0x42#8] with cfg := smallConfig } : State).rx.buf.length := by decide

theorem witness_FrameRoundTripsThroughTheDeframer :
    (0xDB#8 : Byte) ≠ 0xC0#8 ∧ [0xC0#8, 0xDB#8].length ≤ smallConfig.val.rxbufMax ∧
    [0xC0#8, 0xDB#8].length + 1 ≤ smallConfig.val.maxOperand ∧
    ({ State.reset with cfg := smallConfig } : State).rx.state = .hunt ∧ (sRx .addr 0x05#8 []).rx.state = .addr := by decide

theorem witness_FrameExtentsHoldAMarker :
    (0, 4) ∈ frameExtents [0xAA#8, 0xF1#8, 0x5E#8, 0x48#8].length (markerOffsets [0xAA#8, 0xF1#8, 0x5E#8, 0x48#8]) := by decide

theorem witness_DescrambleCompletes :
    [0x12#8].length + 2 ≤ State.reset.cfg.val.maxOperand ∧ (0x01#8 : Byte) ≤ 0x01#8 ∧ (0x01#8 : Byte) < 0x02#8 := by decide

theorem witness_DescramblerClosedForm : 0 < 8 * [0x12#8].length ∧ 7 < 8 * [0x12#8].length := by decide

theorem witness_DescramblerSelfSynchronises : 8 < 9 ∧ 8 < 8 * [0x12#8, 0x34#8].length ∧ 15 < 8 * [0x12#8, 0x34#8].length := by
  decide

theorem witness_BytesAreAField : (0x01#8 : Byte) ≠ 0#8 ∧ (0xFF#8 : Byte) ≠ 0#8 := by decide

theorem witness_SingleErrorSyndromes :
    isCodeword referenceConfig.val hc 2 = true ∧ hc.length = 15 ∧ 14 < hc.length ∧ 1 < 2 ∧ referenceConfig.val.rsFcr = 0 ∧
    referenceConfig.val.rsGen = 0x02#8 := by decide +kernel

theorem witness_DecoderIsSound :
    bdDecode referenceConfig.val (withError hc 14 0x01#8) 2 = some (hc, 1) := by decide +kernel

theorem isCodeword_zeros (c : Config) (n t : Nat) : isCodeword c (zeros n) t = true := by
  have h0 : ∀ x : Byte, gfMul 0#8 x ^^^ 0#8 = 0#8 := by decide +kernel
  have h : ∀ x : Byte, hornerHigh x (zeros n) = 0#8 := fun x => by
    unfold hornerHigh zeros
    induction n with
    | zero => rfl
    | succ n ih => simpa [List.replicate_succ, h0] using ih
  simp [isCodeword, syndromes, syndrome, h]

/-- The two radii: one wrong byte of a header block, and eight wrong bytes of the longest payload block, at its ends. -/
theorem witness_ErrorsUpToTheRadiusAreCorrected :
    (hc.length ≤ 255 ∧ isCodeword referenceConfig.val hc 2 = true ∧ (withError hc 14 0x01#8).length = hc.length ∧
      blockDist (withError hc 14 0x01#8) hc = 2 / 2) ∧
    ((zeros 255).length ≤ 255 ∧ isCodeword referenceConfig.val (zeros 255) 16 = true ∧
      (List.replicate 4 0x01#8 ++ zeros 247 ++ List.replicate 4 0xFF#8).length = (zeros 255).length ∧
      blockDist (List.replicate 4 0x01#8 ++ zeros 247 ++ List.replicate 4 0xFF#8) (zeros 255) = 16 / 2) ∧
    ((zeros 3).length ≤ 239 ∧ (rsEncode referenceConfig.val (zeros 3) 16).length = (zeros 3).length + 16 ∧
      blockDist (rsEncode referenceConfig.val (zeros 3) 16) (rsEncode referenceConfig.val (zeros 3) 16) ≤ 16 / 2) :=
  ⟨by decide +kernel, ⟨by decide +kernel, isCodeword_zeros _ _ _, by decide +kernel, by decide +kernel⟩, by decide +kernel⟩

/-- The sum of a block's bytes is its syndrome at `α^0 = 1`. -/
theorem foldl_gfMul_one (r : Bytes) (y : Byte) : r.foldl (fun y b => gfMul y 1#8 ^^^ b) y = r.foldl (· ^^^ ·) y := by
  have h : ∀ a : Byte, gfMul a 1#8 = a := by decide +kernel
  simp only [h]

/-- Blocks of equal length and equal sum that differ in at most one byte are equal. -/
theorem eq_of_dist_le_one (r w : Bytes) (y : Byte) (hl : r.length = w.length) (hd : blockDist r w ≤ 1)
    (hs : r.foldl (· ^^^ ·) y = w.foldl (· ^^^ ·) y) : r = w := by
  induction r generalizing w y with
  | nil => exact (List.length_eq_zero_iff.1 hl.symm).symm
  | cons a r ih =>
    obtain ⟨b, w, rfl⟩ : ∃ b w', w = b :: w' := by cases w <;> simp_all
    have hdist : blockDist (a :: r) (b :: w) = (if a = b then 0 else 1) + blockDist r w := by simp [blockDist]
    rw [hdist] at hd
    by_cases hab : a = b
    · subst hab
      rw [ih w (y ^^^ a) (by simpa using hl) (by simpa using hd) hs]
    · exfalso
      have h0 : blockDist r w = 0 := by simp [hab] at hd; omega
      have hrw : r = w := by
        clear ih hs hd hdist
        induction r generalizing w with
        | nil => exact (List.length_eq_zero_iff.1 (by simpa using hl.symm)).symm
        | cons c r ih =>
          obtain ⟨d, w, rfl⟩ : ∃ d w', w = d :: w' := by cases w <;> simp_all
          have h1 : (if c = d then 0 else 1) + blockDist r w = 0 := by simpa [blockDist] using h0
          by_cases hcd : c = d
          · subst hcd
            rw [ih w (by simpa using hl) (by simpa using h1)]
          · simp [hcd] at h1
      subst hrw
      have key : ∀ (r : Bytes) (u v : Byte), r.foldl (· ^^^ ·) u = r.foldl (· ^^^ ·) v → u = v := by
        intro r
        induction r with
        | nil => exact fun u v h => h
        | cons c r ih => exact fun u v h => by simpa using ih _ _ h
      exact hab (by simpa using key r _ _ hs)

/-- Both clauses: a block within distance 1 of a codeword, and one with no codeword within distance 1, because its bytes sum to
0 and it is no codeword itself. -/
theorem witness_HeaderDecoderIsBoundedDistance :
    ((withError hc 14 0x01#8).length = 15 ∧ hc.length = 15 ∧ isCodeword referenceConfig.val hc 2 = true ∧
      blockDist (withError hc 14 0x01#8) hc ≤ 1) ∧
    ((zeros 13 ++ [0x01#8, 0x01#8]).length = 15 ∧
      ∀ w : Bytes, w.length = 15 → isCodeword referenceConfig.val w 2 = true → 1 < blockDist (zeros 13 ++ [0x01#8, 0x01#8]) w) := by
  refine ⟨by decide +kernel, by decide, fun w hw hc => ?_⟩
  by_contra hd
  have hs : w.foldl (· ^^^ ·) 0#8 = 0#8 := by
    have h0 : syndrome referenceConfig.val w 0 = 0#8 := by
      have := (List.all_eq_true.1 hc) (syndrome referenceConfig.val w 0)
        (List.mem_map.2 ⟨0, by simp, rfl⟩)
      simpa using this
    rw [← foldl_gfMul_one]
    exact h0
  have hr := eq_of_dist_le_one (zeros 13 ++ [0x01#8, 0x01#8]) w 0#8 (by rw [hw]; decide) (by omega) (by rw [hs]; decide)
  rw [← hr] at hc
  exact absurd hc (by decide +kernel)

theorem witness_FecCompletes :
    (hc.length = 15 ∧ hc.length ≤ State.reset.cfg.val.maxOperand ∧ bdDecode State.reset.cfg.val hc 2 = some (hc, 0) ∧
      bdDecode State.reset.cfg.val (zeros 13 ++ [0x01#8, 0x01#8]) 2 = none) ∧
    (16 ≤ (zeros 16).length ∧ (zeros 16).length ≤ 255 ∧ (zeros 16).length ≤ State.reset.cfg.val.maxOperand ∧
      bdDecode State.reset.cfg.val (zeros 16) 16 = some (zeros 16, 0) ∧
      bdDecode State.reset.cfg.val (List.replicate 9 0x01#8 ++ zeros 7) 16 = none) ∧
    (16 ≤ (zeros 255).length ∧ (zeros 255).length ≤ 255) := by decide +kernel

/-- A variant of each direction; the decided one is that of the check values. -/
theorem witness_ChecksumCommandsComplete :
    4 ≤ State.reset.cfg.val.maxOperand ∧ frameA.length ≤ State.reset.cfg.val.maxOperand ∧
    (tc0.val.crcPoly = 0x1021#16 ∧ tc0.val.crcReflect = false ∧ tc0.val.crcXorout = 0x0000#16) ∧
    ({ tc0.val with crcReflect := true } : Config).crcReflect = true := by decide +kernel

theorem witness_RecoverInvertsEncodeChecksum :
    lawL1 tc0.val.nibbleTable hammingEnc ∧ lawL2 tc0.val.nibbleTable hammingEnc ∧ 0 < 8 ∧ 7 < 8 :=
  ⟨lawL1_hamming, lawL2_hamming, by decide, by decide⟩

/-- The four boundaries of the body length. -/
theorem witness_PaFrameCompletes :
    (zeros 276).length ≤ State.reset.cfg.val.maxOperand ∧ (zeros 35).length < 36 ∧ 36 ≤ (zeros 36).length ∧
    (zeros 275).length ≤ 275 ∧ 275 < (zeros 276).length := by decide +kernel

theorem witness_PaCaptCompletes :
    [0x01#8, 0xAA#8, 0xF1#8].length ≤ State.reset.cfg.val.maxOperand ∧ markerOffsets [0x01#8, 0xAA#8, 0xF1#8] = [] := by decide

theorem witness_RecordLayout :
    36 ≤ (zeros 36).length ∧ (zeros 36).length ≤ 275 ∧ 36 ≤ (zeros 275).length ∧ (zeros 275).length ≤ 275 := by decide +kernel

theorem witness_RegionsAreIndependent :
    frameA.length = (frameA.set 40 0x00#8).length ∧
    (∀ k, k ≠ spareIndex tc0.val frameA → frameA[k]? = (frameA.set 40 0x00#8)[k]?) ∧
    36 ≤ frameA.length ∧ frameA.length ≤ 275 ∧
    slice 0 15 frameA = slice 0 15 (frameA.set 40 0x00#8) ∧ slice 15 36 frameA = slice 15 36 (frameA.set 40 0x00#8) ∧
    slice 15 40 frameA = slice 15 40 (frameA.set 40 0x00#8) := by
  refine ⟨by decide +kernel, fun k hk => ?_, by decide +kernel, by decide +kernel, by decide +kernel, by decide +kernel,
    by decide +kernel⟩
  have h40 : spareIndex tc0.val frameA = 40 := by decide +kernel
  rw [List.getElem?_set_ne (by omega)]

theorem witness_CaptureOfMarkedBodies :
    markerOffsets [0xAA#8] = [] ∧ ∀ b ∈ [[0xF1#8, 0x5E#8], [], frameA], markerOffsets b = [] := by decide +kernel

/-- The payloads of length 0 and 239. -/
theorem witness_BuiltBodyDecodesClean :
    lawL1 tc0.val.nibbleTable hammingEnc ∧ (zeros 13).length = 13 ∧ (zeros 0).length ≤ 239 ∧ (zeros 239).length ≤ 239 :=
  ⟨lawL1_hamming, by decide, by decide, by decide +kernel⟩

/-- A body with one wrong byte in its header region and eight in its payload region, the first and the last among them. -/
theorem witness_WrongBytesWithinTheRadiusStayClean :
    lawL1 tc0.val.nibbleTable hammingEnc ∧ (zeros 13).length = 13 ∧ (zeros 3).length ≤ 239 ∧
    (let sent := buildBody tc0.val hammingEnc (zeros 13) (zeros 3) 0x55#8
     let body := [14, 15, 16, 17, 18, 30, 31, 32, 33].foldl (fun b i => withError b i 0x80#8) sent
     let b := leadShift tc0.val.sparePos
     body.length = sent.length ∧ blockDist (slice b (b + 15) body) (slice b (b + 15) sent) = 1 ∧
     blockDist (slice (b + 15) (b + 31 + 3) body) (slice (b + 15) (b + 31 + 3) sent) = 8 ∧
     slice (b + 31 + 3) (b + 35 + 3) body = slice (b + 31 + 3) (b + 35 + 3) sent) :=
  ⟨lawL1_hamming, by decide, by decide, by decide +kernel⟩

theorem witness_ThreeBuiltFramesDecode :
    lawL1 s0.cfg.val.nibbleTable hammingEnc ∧ (zeros 13).length = 13 ∧ (zeros 0).length ≤ 239 ∧
    markerOffsets (buildBody s0.cfg.val hammingEnc (zeros 13) (zeros 0) 0x55#8) = [] ∧
    (marker ++ buildBody s0.cfg.val hammingEnc (zeros 13) (zeros 0) 0x55#8
      ++ marker ++ buildBody s0.cfg.val hammingEnc (zeros 13) (zeros 0) 0x55#8
      ++ marker ++ buildBody s0.cfg.val hammingEnc (zeros 13) (zeros 0) 0x55#8).length ≤ s0.cfg.val.maxOperand :=
  ⟨lawL1_hamming, by decide, by decide, by decide +kernel, by decide +kernel⟩

/-- The ends of the two ranges of unassigned indices, and a state with the invariant whose buffer is not empty. -/
theorem witness_RegisterReadCompletes :
    (((0x06#8 : Byte) ≤ 0x06#8 ∧ (0x06#8 : Byte) ≤ 0x0F#8) ∧ ((0x06#8 : Byte) ≤ 0x0F#8 ∧ (0x0F#8 : Byte) ≤ 0x0F#8) ∧
      (0x16#8 : Byte) ≤ 0x16#8 ∧ (0x16#8 : Byte) ≤ 0xFF#8) ∧
    (sRx .data 0x05#8 [0x41#8]).Inv ∧ (sRx .data 0x05#8 [0x41#8]).rx.buf.length = 1 := ⟨by decide, sRx_inv, rfl⟩

end Sys2Proof.Tests
end

section
/-! What the configuration check means in the terms of the spec (00_scope.md rule R10, 43_blockfec.md rule R164, 44_checksum.md
rule R171), and which parameters power on. -/

namespace Sys2Proof.Machine

/-! ### `RS_GEN` -/

theorem gfMul_one_left (g : Byte) : gfMul 1#8 g = g := by
  revert g
  decide +kernel

/-- A table of powers that starts at `g^e` lists `g^e, g^(e+1), …`. -/
theorem gfPowersFrom_gfPow (g : Byte) (n e : Nat) :
    gfPowersFrom g n (gfPow g e) = (List.range' e n).map (gfPow g) := by
  induction n generalizing e with
  | zero => rfl
  | succ n ih =>
    rw [List.range'_succ, List.map_cons, ← ih (e + 1)]
    rfl

/-- R164's own words: not 0, and none of `g^1 … g^254` is 1. -/
theorem gfPrimitive_iff (g : Byte) :
    gfPrimitive g = true ↔ g ≠ 0#8 ∧ ∀ e, 1 ≤ e → e ≤ 254 → gfPow g e ≠ 1#8 := by
  have hpowers : gfPowersFrom g 254 g = (List.range' 1 254).map (gfPow g) := by
    rw [← gfPowersFrom_gfPow, show gfPow g 1 = g from gfMul_one_left g]
  have hrange (e : Nat) : e ∈ List.range' 1 254 ↔ 1 ≤ e ∧ e ≤ 254 := by
    rw [List.mem_range'_1]
    omega
  simp [gfPrimitive, hpowers, -List.mem_range'_1, hrange]

/-! ### `NIBBLE_TABLE` -/

/-- The numbers below `2^w` are all the words of `w` bits. -/
theorem forall_lt_ofNat_iff {w : Nat} {p : BitVec w → Prop} :
    (∀ n, n < 2 ^ w → p (BitVec.ofNat w n)) ↔ ∀ v, p v :=
  ⟨fun h v => by simpa using h v.toNat v.isLt, fun h _ _ => h _⟩

theorem exists_lt_ofNat_iff {w : Nat} {p : BitVec w → Prop} :
    (∃ n, n < 2 ^ w ∧ p (BitVec.ofNat w n)) ↔ ∃ v, p v :=
  ⟨fun ⟨_, _, h⟩ => ⟨_, h⟩, fun ⟨v, h⟩ => ⟨v.toNat, v.isLt, by simpa using h⟩⟩

theorem codesNibble_iff (t : NibbleTable) (v : BitVec 4) (b : Byte) :
    codesNibble t v b = true ↔ nibbleAt t b = v ∧ ∀ i, i < 8 → nibbleAt t (b ^^^ (1#8 <<< i)) = v := by
  simp [codesNibble]

/-- The check asks for a code byte of every nibble. -/
theorem nibbleLawful_iff_forall_exists (t : NibbleTable) :
    nibbleLawful t = true ↔ ∀ v, ∃ b, codesNibble t v b = true := by
  simp only [← forall_lt_ofNat_iff (w := 4), ← exists_lt_ofNat_iff (w := 8)]
  simp [nibbleLawful]

/-- R171: a choice of one code byte for every nibble is the encoder of L1 and L2. -/
theorem nibbleLawful_iff (t : NibbleTable) :
    nibbleLawful t = true ↔ ∃ enc, lawL1 t enc ∧ lawL2 t enc := by
  rw [nibbleLawful_iff_forall_exists, Classical.skolem]
  simp only [codesNibble_iff, forall_and, lawL1, lawL2]

/-! ### Configurations and power-on -/

theorem configValid_iff (c : Config) :
    configValid c = true ↔
      c.rsFcr ≤ 254 ∧ c.rsGen ≠ 0#8 ∧ (∀ e, 1 ≤ e → e ≤ 254 → gfPow c.rsGen e ≠ 1#8) ∧
      (∃ enc, lawL1 c.nibbleTable enc ∧ lawL2 c.nibbleTable enc) ∧
      1 ≤ c.maxOperand ∧ c.maxOperand ≤ 2 ^ 32 - 1 ∧ 1 ≤ c.rxbufMax ∧ c.rxbufMax ≤ 65535 := by
  simp only [configValid, Bool.and_eq_true, decide_eq_true_eq, gfPrimitive_iff, nibbleLawful_iff, and_assoc]

theorem powerOn_of_valid {c : Config} (h : configValid c = true) :
    State.powerOn c = .next (State.resetWith ⟨c, h⟩) := dif_pos h

theorem powerOn_of_not_valid {c : Config} (h : configValid c = false) :
    State.powerOn c = .refused .invalidConfiguration := dif_neg (by simp [h])

/-- Settles O14: the check is the spec's list of ranges and laws, and power-on branches on the check alone. -/
theorem onlySpecConfigurationsRun : Obligations.OnlySpecConfigurationsRun :=
  ⟨configValid_iff, fun _ h => ⟨_, powerOn_of_valid h, rfl⟩, fun _ h => powerOn_of_not_valid h⟩

end Sys2Proof.Machine
end

section
/-! Two runs of one command from two states of equal configuration (00_scope.md rule R18, 10_state.md rule R45): the response does
not depend on the state, and neither do the frame counts that PA.FRAME and PA.CAPT add (45_assembler.md rule R201). -/

namespace Sys2Proof.Machine

variable {s s' t t' : State} {i : Instr}

/-! ### The same response from two states -/

/-- From `s` to `t` and from `s'` to `t'` the same bytes were emitted, and `LAST_STS` took the same status. -/
def SameResponse (s s' t t' : State) : Prop :=
  ∃ p, t.rspStream = s.rspStream ++ p ∧ t'.rspStream = s'.rspStream ++ p ∧ t.lastSts = t'.lastSts

/-- Changes of the deframer and the counters before the response are not seen in it. -/
theorem sameResponse_respond {u u' : State} (hu : u.rspStream = s.rspStream) (hu' : u'.rspStream = s'.rspStream)
    (st : Status) (r : Bytes) : SameResponse s s' (u.respond st r) (u'.respond st r) :=
  ⟨responsePacket st r, by simp [hu], by simp [hu'], rfl⟩

theorem sameResponse_raise {u u' : State} (hu : u.rspStream = s.rspStream) (hu' : u'.rspStream = s'.rspStream)
    (st : Status) : SameResponse s s' (u.raise st) (u'.raise st) :=
  sameResponse_respond hu hu' st []

theorem sameResponse_finishDecode (hc : s.cfg = s'.cfg) (r : Bytes) (n : Nat) :
    SameResponse s s' (s.finishDecode r n) (s'.finishDecode r n) := by
  unfold State.finishDecode
  rw [hc]
  rcases bdDecode s'.cfg.val r n with _ | ⟨w, d⟩
  · exact sameResponse_raise rfl rfl _
  · exact sameResponse_respond rfl rfl _ _

theorem sameResponse_finishFrame (s s' : State) (res : FrameResult) :
    SameResponse s s' (s.finishFrame res) (s'.finishFrame res) := by
  cases res with
  | drop reason => exact sameResponse_raise rfl rfl _
  | record r => refine sameResponse_respond ?_ ?_ _ _ <;> split <;> rfl

/-- A command that reads the same operand in both states responds alike if it does so for every operand it accepts: an operand
error is raised in both. -/
theorem sameResponse_withOperand {α : Type} {p p' : Except Status α} {k k' : α → State} (hp : p = p')
    (h : withOperand s p k = .next t) (h' : withOperand s' p' k' = .next t')
    (hk : ∀ a, SameResponse s s' (k a) (k' a)) : SameResponse s s' t t' := by
  subst hp
  cases p with
  | error st =>
    cases h
    cases h'
    exact sameResponse_raise rfl rfl st
  | ok a =>
    cases h
    cases h'
    exact hk a

/-- The commands whose result is a function of the operand and the configuration. -/
theorem sameResponse_withOperand_respond {α : Type} {p p' : Except Status α} {f f' : α → Bytes} (hp : p = p') (hf : f = f')
    (h : withOperand s p (fun a => s.respond .ok (f a)) = .next t)
    (h' : withOperand s' p' (fun a => s'.respond .ok (f' a)) = .next t') : SameResponse s s' t t' := by
  subst hf
  exact sameResponse_withOperand hp h h' fun a => sameResponse_respond rfl rfl .ok (f a)

/-- Every command but FC.RX, which answers from the deframer, and REG.RD, which answers from the registers. -/
theorem exec_sameResponse (hrx : isFcRx i = false) (hrd : isRegRd i = false) (hc : s.cfg = s'.cfg)
    (h : exec i s = .next t) (h' : exec i s' = .next t') : SameResponse s s' t t' := by
  cases i with
  | fcRx op => cases hrx
  | regRd op => cases hrd
  | fcEsc op => exact sameResponse_withOperand_respond (by rw [hc]) rfl h h'
  | fcUnesc op =>
    refine sameResponse_withOperand (by rw [hc]) h h' fun d => ?_
    rcases unescape d with st | r
    · exact sameResponse_raise rfl rfl st
    · exact sameResponse_respond rfl rfl .ok r
  | fcFrame op =>
    refine sameResponse_withOperand (by rw [hc]) h h' fun ad => ?_
    by_cases ha : ad.1 = fend
    · simpa [ha] using sameResponse_raise rfl rfl _
    · simpa [ha] using sameResponse_respond rfl rfl _ _
  | fcRxrst op => exact sameResponse_withOperand (by rw [hc]) h h' fun _ => sameResponse_respond rfl rfl _ _
  | dlFind op => exact sameResponse_withOperand_respond (by rw [hc]) rfl h h'
  | dsDesc op => exact sameResponse_withOperand_respond (by rw [hc]) rfl h h'
  | dsDescs op => exact sameResponse_withOperand_respond (by rw [hc]) rfl h h'
  | fecHchk op => exact sameResponse_withOperand_respond (by rw [hc]) (by rw [hc]) h h'
  | fecHdec op => exact sameResponse_withOperand (by rw [hc]) h h' fun r => sameResponse_finishDecode hc r _
  | fecPchk op => exact sameResponse_withOperand_respond (by rw [hc]) (by rw [hc]) h h'
  | fecPdec op => exact sameResponse_withOperand (by rw [hc]) h h' fun r => sameResponse_finishDecode hc r _
  | crRec op => exact sameResponse_withOperand_respond (by rw [hc]) (by rw [hc]) h h'
  | crcCalc op => exact sameResponse_withOperand_respond (by rw [hc]) (by rw [hc]) h h'
  | crcRef op => exact sameResponse_withOperand_respond (by rw [hc]) (by rw [hc]) h h'
  | paFrame op =>
    refine sameResponse_withOperand (by rw [hc]) h h' fun body => ?_
    rw [hc]
    exact sameResponse_finishFrame s s' _
  | paCapt op =>
    refine sameResponse_withOperand (by rw [hc]) h h' fun cap => ?_
    rw [hc]
    exact sameResponse_respond rfl rfl _ _
  | nop op => exact sameResponse_withOperand_respond (by rw [hc]) rfl h h'
  | cntClr op => exact sameResponse_withOperand (by rw [hc]) h h' fun _ => sameResponse_respond rfl rfl _ _
  | reset op => exact sameResponse_withOperand (by rw [hc]) h h' fun _ => sameResponse_respond rfl rfl _ _

/-! ### What PA.FRAME and PA.CAPT do to the deframer and the frame counters -/

/-- The deframer stays, and the frame counters grow by the numbers of clean, degraded and dropped frames among `fs`. -/
structure CountsFrames (fs : List FrameResult) (s t : State) : Prop where
  rx : t.rx = s.rx
  clean : t.cnt.clean = s.cnt.clean + BitVec.ofNat 32 (fs.countP FrameResult.isClean)
  degraded : t.cnt.degraded = s.cnt.degraded + BitVec.ofNat 32 (fs.countP FrameResult.isDegraded)
  dropped : t.cnt.dropped = s.cnt.dropped + BitVec.ofNat 32 (fs.countP FrameResult.isDrop)

/-! An error counts in `CNT_CMD_ERRORS` or not (R230 b), never in a frame counter. -/

@[simp] theorem Counters.ite_countCmdError_clean (c : Counters) (b : Bool) :
    (if b = true then c.countCmdError else c).clean = c.clean := by cases b <;> rfl

@[simp] theorem Counters.ite_countCmdError_degraded (c : Counters) (b : Bool) :
    (if b = true then c.countCmdError else c).degraded = c.degraded := by cases b <;> rfl

@[simp] theorem Counters.ite_countCmdError_dropped (c : Counters) (b : Bool) :
    (if b = true then c.countCmdError else c).dropped = c.dropped := by cases b <;> rfl

theorem countsFrames_raise (s : State) (st : Status) : CountsFrames [] s (s.raise st) := by
  constructor <;> simp

/-- PA.FRAME's three endings: a drop, a clean record, a degraded record. -/
theorem countsFrames_finishFrame (s : State) (res : FrameResult) : CountsFrames [res] s (s.finishFrame res) := by
  rcases finishFrame_cases s res with ⟨reason, rfl, h⟩ | ⟨r, rfl, hf, h⟩ | ⟨r, rfl, hf, h⟩ <;> rw [h]
  · constructor <;> simp [FrameResult.isClean, FrameResult.isDegraded, FrameResult.isDrop]
  · constructor <;> simp [FrameResult.isClean, FrameResult.isDegraded, FrameResult.isDrop, hf]
  · constructor <;> simp [FrameResult.isClean, FrameResult.isDegraded, FrameResult.isDrop, hf]

/-- PA.CAPT counts all its frames at once, before it answers (R53). -/
theorem countsFrames_respond (s : State) (fs : List (Nat × FrameResult)) (st : Status) (r : Bytes) :
    CountsFrames (fs.map (·.2)) s
      ((s.countFrames (countClean fs) (countDegraded fs) (countDropped fs)).respond st r) := by
  constructor <;> simp [countClean, countDegraded, countDropped, List.countP_map, Function.comp_def]

/-- The frames counted are those the command locates, which its operand and the configuration determine. -/
theorem exec_countsFrames (hpa : isPa i = true) (h : exec i s = .next t) :
    CountsFrames (locatedFrames s.cfg.val i) s t := by
  cases i with
  | paFrame op =>
    rcases execPaFrame_cases h with ⟨hl, rfl⟩ | ⟨hl, rfl⟩
    · simpa [locatedFrames, Nat.not_le.2 hl] using countsFrames_raise s .badLength
    · simpa [locatedFrames, hl] using countsFrames_finishFrame s (decodeFrame s.cfg.val op 0)
  | paCapt op =>
    rcases execPaCapt_cases h with ⟨hl, rfl⟩ | ⟨hl, rfl⟩
    · simpa [locatedFrames, Nat.not_le.2 hl] using countsFrames_raise s .badLength
    · simpa [locatedFrames, hl] using countsFrames_respond s (captureFrames s.cfg.val op) .ok _
  | _ => cases hpa

/-- Counting the same frames adds the same numbers, whatever the counters held. -/
theorem CountsFrames.same_increments {fs : List FrameResult} (h : CountsFrames fs s t) (h' : CountsFrames fs s' t') :
    t.cnt.clean - s.cnt.clean = t'.cnt.clean - s'.cnt.clean ∧
    t.cnt.degraded - s.cnt.degraded = t'.cnt.degraded - s'.cnt.degraded ∧
    t.cnt.dropped - s.cnt.dropped = t'.cnt.dropped - s'.cnt.dropped := by
  simp only [h.clean, h.degraded, h.dropped, h'.clean, h'.degraded, h'.dropped, add_sub_cancel_left, and_self]

/-- Settles O21: the responses agree by `exec_sameResponse`, the counts because both runs locate the same frames. -/
theorem responseDependsOnOperandAndConfiguration : Obligations.ResponseDependsOnOperandAndConfiguration := by
  intro i s s' t t' hrx hrd hc h h'
  obtain ⟨p, hp, hp', hlast⟩ := exec_sameResponse hrx hrd hc h h'
  refine ⟨p, hp, hp', hlast, fun hpa => ?_⟩
  have hcount := exec_countsFrames hpa h
  have hcount' := exec_countsFrames hpa h'
  rw [← hc] at hcount'
  exact ⟨hcount.rx, hcount.same_increments hcount'⟩

end Sys2Proof.Machine
end

section
/-! The inversion lemma of `exec` for the state (10_state.md rule R21): what each command can do to the deframer, the counters
and `LAST_STS`, and what every command does to the ports. The statements about the state go through it. -/

namespace Sys2Proof.Machine

variable {s t : State} {i : Instr}

/-! ### Every command has a next state -/

theorem withOperand_total {α : Type} (s : State) (p : Except Status α) (k : α → State) :
    ∃ t, withOperand s p k = .next t := by
  cases p with
  | error st => exact ⟨_, withOperand_error s st k⟩
  | ok a => exact ⟨_, withOperand_ok s a k⟩

/-- No command stops the block (R241): with it an equation `exec i s = .next t` is read off the command's inversion lemma. -/
theorem exec_total (i : Instr) (s : State) : ∃ t, exec i s = .next t := by
  cases i with
  | regRd op =>
    show ∃ t, execRegRd op s = .next t
    unfold execRegRd
    split
    · exact ⟨_, rfl⟩
    · exact ⟨_, rfl⟩
  | _ => exact withOperand_total _ _ _

/-! ### How each command ends -/

/-- The ways a command can end, each with the commands that can end so: REG.RD writes nothing; an error is raised; a result is
returned and only `LAST_STS` written; or it is one of the six commands that write the deframer or the counters. -/
inductive CommandEnd (s : State) : Instr → State → Prop
  /-- REG.RD, well or badly (R34). -/
  | registerRead (op : Bytes) (st : Status) (r : Bytes) : CommandEnd s (.regRd op) (s.answerQuietly st r)
  /-- A command error of any other command (R228 to R231); it locates no frame. -/
  | commandError {i : Instr} {st : Status} : isRegRd i = false → locatedFrames s.cfg.val i = [] →
      st = .badLength ∨ st = .badOperand → CommandEnd s i (s.raise st)
  /-- The operand's bytes cannot be decoded: FC.UNESC (R95), FEC.HDEC and FEC.PDEC (R156). -/
  | decodeError {i : Instr} {st : Status} : isRegRd i = false → isFcRx i = false → locatedFrames s.cfg.val i = [] →
      st = .incompleteEscape ∨ st = .invalidEscape ∨ st = .uncorrectableBlock → CommandEnd s i (s.raise st)
  /-- A result is returned. -/
  | completed {i : Instr} (r : Bytes) : isRegRd i = false → locatedFrames s.cfg.val i = [] →
      CommandEnd s i (s.respond .ok r)
  /-- FC.RX (R103). -/
  | received (b : Byte) : CommandEnd s (.fcRx [b]) (s.finishRx (deframerStep s.cfg.val.rxbufMax s.rx b))
  /-- FC.RXRST (R104). -/
  | deframerCleared :
      CommandEnd s (.fcRxrst []) (({ s with rx := { s.rx with state := .hunt, buf := [] } }).respond .ok [])
  /-- PA.FRAME (R197). -/
  | frameDecoded (op : Bytes) : op.length ≤ s.cfg.val.maxOperand →
      CommandEnd s (.paFrame op) (s.finishFrame (decodeFrame s.cfg.val op 0))
  /-- PA.CAPT (R200). -/
  | captureDecoded (op r : Bytes) : op.length ≤ s.cfg.val.maxOperand →
      CommandEnd s (.paCapt op) ((s.countFrames (countClean (captureFrames s.cfg.val op))
        (countDegraded (captureFrames s.cfg.val op)) (countDropped (captureFrames s.cfg.val op))).respond .ok r)
  /-- CNT.CLR (R218). -/
  | countersCleared : CommandEnd s (.cntClr []) (({ s with cnt := Counters.zero }).respond .ok [])
  /-- RESET (R219). -/
  | blockReset : CommandEnd s (.reset []) (s.resetPersistent.respond .ok [])

theorem commandEnd_badLength (hr : isRegRd i = false) (hf : locatedFrames s.cfg.val i = []) :
    CommandEnd s i (s.raise .badLength) :=
  .commandError hr hf (.inl rfl)

theorem commandEnd_badOperand (hr : isRegRd i = false) (hf : locatedFrames s.cfg.val i = []) :
    CommandEnd s i (s.raise .badOperand) :=
  .commandError hr hf (.inr rfl)

theorem commandEnd_finishDecode (hr : isRegRd i = false) (hx : isFcRx i = false) (hf : locatedFrames s.cfg.val i = [])
    (r : Bytes) (n : Nat) : CommandEnd s i (s.finishDecode r n) := by
  rcases finishDecode_cases s r n with ⟨-, h⟩ | ⟨w, d, -, h⟩ <;> rw [h]
  · exact .decodeError hr hx hf (.inr (.inr rfl))
  · exact .completed _ hr hf

/-- Every command ends in one of these ways. -/
theorem exec_commandEnd (h : exec i s = .next t) : CommandEnd s i t := by
  cases i with
  | fcEsc op =>
    rcases execFcEsc_cases h with ⟨-, rfl⟩ | ⟨-, rfl⟩
    · exact commandEnd_badLength rfl rfl
    · exact .completed _ rfl rfl
  | fcUnesc op =>
    rcases execFcUnesc_cases h with ⟨-, rfl⟩ | ⟨-, ⟨st, hu, rfl⟩ | ⟨r, -, rfl⟩⟩
    · exact commandEnd_badLength rfl rfl
    · exact .decodeError rfl rfl rfl ((unescape_error hu).imp_right .inl)
    · exact .completed _ rfl rfl
  | fcFrame op =>
    rcases execFcFrame_cases h with ⟨-, rfl⟩ | ⟨a, d, -, -, ⟨-, rfl⟩ | ⟨-, rfl⟩⟩
    · exact commandEnd_badLength rfl rfl
    · exact commandEnd_badOperand rfl rfl
    · exact .completed _ rfl rfl
  | fcRx op =>
    rcases execFcRx_cases h with ⟨-, rfl⟩ | ⟨b, rfl, rfl⟩
    · exact commandEnd_badLength rfl rfl
    · exact .received b
  | fcRxrst op =>
    rcases execFcRxrst_cases h with ⟨-, rfl⟩ | ⟨rfl, rfl⟩
    · exact commandEnd_badLength rfl rfl
    · exact .deframerCleared
  | dlFind op =>
    rcases execDlFind_cases h with ⟨-, rfl⟩ | ⟨-, rfl⟩
    · exact commandEnd_badLength rfl rfl
    · exact .completed _ rfl rfl
  | dsDesc op =>
    rcases execDsDesc_cases h with ⟨-, rfl⟩ | ⟨-, rfl⟩
    · exact commandEnd_badLength rfl rfl
    · exact .completed _ rfl rfl
  | dsDescs op =>
    rcases execDsDescs_cases h with ⟨-, rfl⟩ | ⟨b1, b0, blk, -, -, ⟨-, rfl⟩ | ⟨-, rfl⟩⟩
    · exact commandEnd_badLength rfl rfl
    · exact commandEnd_badOperand rfl rfl
    · exact .completed _ rfl rfl
  | fecHchk op =>
    rcases execFecHchk_cases h with ⟨-, rfl⟩ | ⟨-, -, rfl⟩
    · exact commandEnd_badLength rfl rfl
    · exact .completed _ rfl rfl
  | fecHdec op =>
    rcases execFecHdec_cases h with ⟨-, rfl⟩ | ⟨-, -, rfl⟩
    · exact commandEnd_badLength rfl rfl
    · exact commandEnd_finishDecode rfl rfl rfl op 2
  | fecPchk op =>
    rcases execFecPchk_cases h with ⟨-, rfl⟩ | ⟨-, -, -, rfl⟩
    · exact commandEnd_badLength rfl rfl
    · exact .completed _ rfl rfl
  | fecPdec op =>
    rcases execFecPdec_cases h with ⟨-, rfl⟩ | ⟨-, -, -, rfl⟩
    · exact commandEnd_badLength rfl rfl
    · exact commandEnd_finishDecode rfl rfl rfl op 16
  | crRec op =>
    rcases execCrRec_cases h with ⟨-, rfl⟩ | ⟨-, -, rfl⟩
    · exact commandEnd_badLength rfl rfl
    · exact .completed _ rfl rfl
  | crcCalc op =>
    rcases execCrcCalc_cases h with ⟨-, rfl⟩ | ⟨-, rfl⟩
    · exact commandEnd_badLength rfl rfl
    · exact .completed _ rfl rfl
  | crcRef op =>
    rcases execCrcRef_cases h with ⟨-, rfl⟩ | ⟨-, rfl⟩
    · exact commandEnd_badLength rfl rfl
    · exact .completed _ rfl rfl
  | paFrame op =>
    rcases execPaFrame_cases h with ⟨hl, rfl⟩ | ⟨hl, rfl⟩
    · exact commandEnd_badLength rfl (if_neg (Nat.not_le.2 hl))
    · exact .frameDecoded op hl
  | paCapt op =>
    rcases execPaCapt_cases h with ⟨hl, rfl⟩ | ⟨hl, rfl⟩
    · exact commandEnd_badLength rfl (if_neg (Nat.not_le.2 hl))
    · exact .captureDecoded op _ hl
  | nop op =>
    rcases execNop_cases h with ⟨-, rfl⟩ | ⟨-, rfl⟩
    · exact commandEnd_badLength rfl rfl
    · exact .completed _ rfl rfl
  | regRd op =>
    rcases execRegRd_cases h with ⟨-, rfl⟩ | ⟨j, rfl, -, rfl⟩
    · exact .registerRead op _ _
    · obtain ⟨st, r, hj, -⟩ := answerRegister_end s j
      exact hj ▸ .registerRead _ st r
  | cntClr op =>
    rcases execCntClr_cases h with ⟨-, rfl⟩ | ⟨rfl, rfl⟩
    · exact commandEnd_badLength rfl rfl
    · exact .countersCleared
  | reset op =>
    rcases execReset_cases h with ⟨-, rfl⟩ | ⟨rfl, rfl⟩
    · exact commandEnd_badLength rfl rfl
    · exact .blockReset

/-! ### The ports and `LAST_STS` -/

theorem isRegRd_eq_false (h : ∀ op, i ≠ .regRd op) : isRegRd i = false := by
  cases i with
  | regRd op => exact absurd rfl (h op)
  | _ => rfl

/-- The block has answered a command: one response was added, the configuration and the command port stayed, and `LAST_STS` took
the response's status unless the command is quiet (REG.RD). -/
structure Answers (quiet : Bool) (s t : State) : Prop where
  cfg : t.cfg = s.cfg
  cmdStream : t.cmdStream = s.cmdStream
  cmdPos : t.cmdPos = s.cmdPos
  response : ∃ (st : Status) (r : Bytes), t.rspStream = s.rspStream ++ packet st.code r ∧
    (st.isError = true → r = []) ∧ t.lastSts = if quiet then s.lastSts else st.code

theorem EndsInResponse.answers (h : EndsInResponse s t) : Answers false s t := by
  obtain ⟨st, r, rx, cnt, rfl, hr⟩ := h
  exact ⟨rfl, rfl, rfl, st, r, rfl, hr, rfl⟩

theorem exec_answers (h : exec i s = .next t) : Answers (isRegRd i) s t := by
  rcases exec_end h with ⟨op, st, r, rfl, rfl, hr⟩ | ⟨hi, hend⟩
  · exact ⟨rfl, rfl, rfl, st, r, rfl, hr, rfl⟩
  · rw [isRegRd_eq_false hi]
    exact hend.answers

theorem illegalOpcode_answers (s : State) : Answers false s (s.raise .illegalOpcode) :=
  (endsInResponse_raise s .illegalOpcode).answers

/-- Whatever a step finds at the parser's position, it waits, or it moves past a packet that has arrived and answers it. -/
theorem step_answers (h : step s = .next t) :
    t = s ∨ ∃ n quiet, Answers quiet (s.advance n) t := by
  rcases step_cases h with ⟨i, n, -, hexec⟩ | ⟨opc, n, -, rfl⟩ | ⟨-, rfl⟩
  · exact .inr ⟨n, _, exec_answers hexec⟩
  · exact .inr ⟨n, _, illegalOpcode_answers _⟩
  · exact .inl rfl

/-! ### A step, by what stands at the parser's position -/

theorem step_of_command {n : Nat} (h : s.fetch = .command i n) : step s = exec i (s.advance n) := by
  simp only [step, h]

theorem step_of_illegalOpcode {opc : Byte} {n : Nat} (h : s.fetch = .illegalOpcode opc n) :
    step s = .next ((s.advance n).raise .illegalOpcode) := by
  simp only [step, h, illegalOpcodeStep]

/-- Settles O5. -/
theorem stepRunsTheDecodedCommand : Obligations.StepRunsTheDecodedCommand :=
  fun _ _ _ h _ => step_of_command h

/-- Settles O15: an answered step keeps both by `Answers`, and a waiting one keeps everything. -/
theorem stepKeepsConfigurationAndPorts : Obligations.StepKeepsConfigurationAndPorts := by
  intro s t h
  rcases step_answers h with rfl | ⟨n, quiet, hcfg, hstream, hpos, st, r, hrsp, -, -⟩
  · exact ⟨rfl, rfl, ⟨[], List.append_nil _⟩, le_rfl⟩
  · exact ⟨hcfg, hstream, ⟨_, hrsp.symm⟩, hpos ▸ Nat.le_add_right _ _⟩

/-- Settles O19: the response and `LAST_STS` of an answered step carry the same status, REG.RD apart. -/
theorem lastStatusIsTheResponseStatus : Obligations.LastStatusIsTheResponseStatus := by
  refine ⟨fun s t i n hfetch hstep => ?_, fun s t opc n hfetch hstep => ?_, fun _ => rfl⟩
  · rw [step_of_command hfetch] at hstep
    obtain ⟨-, -, -, st, r, hrsp, -, hlast⟩ := exec_answers hstep
    constructor
    · intro hi
      rw [hi] at hlast
      exact ⟨r, hlast ▸ hrsp⟩
    · intro hi
      rw [hi] at hlast
      exact hlast
  · rw [step_of_illegalOpcode hfetch] at hstep
    cases hstep
    rfl

end Sys2Proof.Machine
end

section
/-! The register map as REG.RD reads it (10_state.md rules R27 to R35, 46_system.md rule R217), and the reset values (R41). -/

namespace Sys2Proof.Machine

variable {s t : State}

/-! ### REG.RD with an operand of one byte -/

theorem one_le_maxOperand (s : State) : 1 ≤ s.cfg.val.maxOperand := by
  obtain ⟨-, -, -, -, hmax, -⟩ := (configValid_iff s.cfg.val).1 s.cfg.property
  exact hmax

theorem rxbufMax_le (s : State) : s.cfg.val.rxbufMax ≤ 65535 := by
  obtain ⟨-, -, -, -, -, -, -, hbuf⟩ := (configValid_iff s.cfg.val).1 s.cfg.property
  exact hbuf

/-- Every configuration allows an operand of one byte, so REG.RD goes on to the register. -/
theorem exec_regRd_singleton (s : State) (i : Byte) : exec (.regRd [i]) s = .next (s.answerRegister i) := by
  obtain ⟨t, ht⟩ := exec_total (.regRd [i]) s
  rcases execRegRd_cases ht with ⟨hlen, -⟩ | ⟨j, hj, -, rfl⟩
  · have := one_le_maxOperand s
    simp only [List.length_singleton] at hlen
    omega
  · cases hj
    exact ht

theorem exec_regRd_of_some {i : Byte} {v : BitVec 32} (h : readRegister s i = some v) :
    exec (.regRd [i]) s = .next { s with rspStream := s.rspStream ++ packet 0x00#8 (u32be v) } := by
  rw [exec_regRd_singleton, State.answerRegister, h]
  rfl

theorem exec_regRd_of_none {i : Byte} (h : readRegister s i = none) :
    exec (.regRd [i]) s = .next { s with rspStream := s.rspStream ++ packet 0x82#8 [] } := by
  rw [exec_regRd_singleton, State.answerRegister, h]
  rfl

/-! ### The registers -/

/-- An index in neither block of assigned registers (R35). -/
theorem readRegister_eq_none {i : Byte} (h : (0x06#8 ≤ i ∧ i ≤ 0x0F#8) ∨ 0x16#8 ≤ i) : readRegister s i = none := by
  simp only [BitVec.le_def, BitVec.toNat_ofNat] at h
  unfold readRegister
  split
  iterate 12 · omega
  · rfl

/-- Two fields side by side are the disjunction of the shifted one and the other, as R31 and R32 write a register. -/
theorem setWidth_append_eq_or {v w : Nat} (n : Nat) (x : BitVec v) (y : BitVec w) :
    (x ++ y).setWidth n = (x.setWidth n <<< w) ||| y.setWidth n := by
  ext k hk
  rcases Nat.lt_or_ge k w with hkw | hkw
  · simp [BitVec.getLsbD_append, hkw]
  · simp [BitVec.getLsbD_append, Nat.not_lt.2 hkw, BitVec.getLsbD_of_ge y k hkw]

theorem or_five_reversed {w : Nat} (a b c d e : BitVec w) : a ||| b ||| c ||| d ||| e = e ||| d ||| c ||| b ||| a := by
  ac_rfl

/-- The layout of PARAM (R31). -/
theorem paramFields_eq_or (reflect uncorrected spare : BitVec 1) (gen fcr : Byte) :
    0#13 ++ reflect ++ uncorrected ++ spare ++ gen ++ fcr =
      fcr.setWidth 32 ||| (gen.setWidth 32 <<< 8) ||| (spare.setWidth 32 <<< 16) ||| (uncorrected.setWidth 32 <<< 17)
        ||| (reflect.setWidth 32 <<< 18) := by
  rw [← BitVec.setWidth_eq (0#13 ++ reflect ++ uncorrected ++ spare ++ gen ++ fcr), or_five_reversed]
  simp only [setWidth_append_eq_or, BitVec.shiftLeft_or_distrib, ← BitVec.shiftLeft_add]
  simp only [Nat.reduceAdd, BitVec.setWidth_zero, BitVec.zero_shiftLeft, BitVec.zero_or]

theorem sparePosBit_eq (p : SparePos) : sparePosBit p = decide (p = .lead) := by cases p <;> rfl

theorem crccfgWord_eq (c : Config) :
    crccfgWord c = (c.crcPoly.setWidth 32 <<< 16) ||| c.crcXorout.setWidth 32 := by
  simpa [crccfgWord] using setWidth_append_eq_or 32 c.crcPoly c.crcXorout

/-- `RS_FCR` fits its byte, so the field loses nothing (R10, R31). -/
theorem setWidth_ofNat_rsFcr (s : State) :
    (BitVec.ofNat 8 s.cfg.val.rsFcr).setWidth 32 = BitVec.ofNat 32 s.cfg.val.rsFcr := by
  obtain ⟨hfcr, -⟩ := (configValid_iff s.cfg.val).1 s.cfg.property
  exact BitVec.setWidth_ofNat_of_le_of_lt (by decide) (by omega)

theorem paramWord_eq (s : State) :
    paramWord s.cfg.val = BitVec.ofNat 32 s.cfg.val.rsFcr ||| (s.cfg.val.rsGen.setWidth 32 <<< 8)
      ||| ((BitVec.ofBool (decide (s.cfg.val.sparePos = .lead))).setWidth 32 <<< 16)
      ||| ((BitVec.ofBool s.cfg.val.descrambleUncorrected).setWidth 32 <<< 17)
      ||| ((BitVec.ofBool s.cfg.val.crcReflect).setWidth 32 <<< 18) := by
  rw [paramWord, paramFields_eq_or, setWidth_ofNat_rsFcr, sparePosBit_eq]

/-! STATUS, field by field (R29). -/

theorem statusWord_state (s : State) : (statusWord s).extractLsb' 0 2 = s.rx.state.code :=
  BitVec.extractLsb'_append_eq_right

theorem statusWord_zeros (s : State) : (statusWord s).extractLsb' 2 6 = 0#6 := by
  rw [statusWord, BitVec.extractLsb'_append_eq_of_le (by omega)]
  exact BitVec.extractLsb'_append_eq_right

theorem statusWord_lastSts (s : State) : (statusWord s).extractLsb' 8 8 = s.lastSts := by
  rw [statusWord, BitVec.extractLsb'_append_eq_of_le (by omega), BitVec.extractLsb'_append_eq_of_le (by omega)]
  exact BitVec.extractLsb'_append_eq_right

theorem statusWord_rxLen (s : State) : (statusWord s).extractLsb' 16 16 = BitVec.ofNat 16 s.rx.buf.length := by
  rw [statusWord, BitVec.extractLsb'_append_eq_of_le (by omega), BitVec.extractLsb'_append_eq_of_le (by omega)]
  exact BitVec.extractLsb'_append_eq_left

/-- The buffer's bound is what makes its length fit the field. -/
theorem statusWord_rxLen_toNat (h : s.Inv) : ((statusWord s).extractLsb' 16 16).toNat = s.rx.buf.length := by
  have hbuf := h.bufBound
  have hmax := rxbufMax_le s
  rw [statusWord_rxLen, BitVec.toNat_ofNat]
  omega

/-- Settles O60: `exec_regRd_of_some` and `exec_regRd_of_none`, with the registers above. -/
theorem registerReadCompletes : Obligations.RegisterReadCompletes := by
  intro s
  refine ⟨fun i v hiv => exec_regRd_of_some ?_, ⟨statusWord s, exec_regRd_of_some rfl, statusWord_state s,
    statusWord_zeros s, statusWord_lastSts s, statusWord_rxLen_toNat⟩,
    fun i hi => exec_regRd_of_none (readRegister_eq_none hi)⟩
  rw [← paramWord_eq, ← crccfgWord_eq] at hiv
  simp only [List.mem_cons, List.not_mem_nil, or_false, Prod.mk.injEq] at hiv
  rcases hiv with ⟨rfl, rfl⟩ | ⟨rfl, rfl⟩ | ⟨rfl, rfl⟩ | ⟨rfl, rfl⟩ | ⟨rfl, rfl⟩ | ⟨rfl, rfl⟩ | ⟨rfl, rfl⟩ | ⟨rfl, rfl⟩
    | ⟨rfl, rfl⟩ | ⟨rfl, rfl⟩ | ⟨rfl, rfl⟩ <;> rfl

/-! ### Reset values -/

theorem exec_reset_nil (s : State) : exec (.reset []) s = .next (s.resetPersistent.respond .ok []) := by
  obtain ⟨t, ht⟩ := exec_total (.reset []) s
  rcases execReset_cases ht with ⟨hne, -⟩ | ⟨-, rfl⟩
  · exact absurd rfl hne
  · exact ht

/-- Settles O13: each of the two events is the model's one reset of the persistent state. -/
theorem bothResetsGiveTheResetValues : Obligations.BothResetsGiveTheResetValues :=
  ⟨fun _ h => powerOn_of_valid h, powerOn_of_valid referenceConfig.property, exec_reset_nil⟩

end Sys2Proof.Machine
end

section
/-! Who writes the deframer (10_state.md rules R24 to R26), what one byte does to its address and its buffer (40_framecodec.md
rules R98 to R102), and the invariant of the block. -/

namespace Sys2Proof.Machine

variable {s t : State} {i : Instr}

/-! ### Which commands write the deframer -/

/-- The three commands that write the deframer, and what they write. -/
theorem exec_rx (h : exec i s = .next t) :
    t.rx = s.rx ∨ (∃ b, i = .fcRx [b] ∧ t.rx = (deframerStep s.cfg.val.rxbufMax s.rx b).rx) ∨
    (i = .fcRxrst [] ∧ t.rx = { s.rx with state := .hunt, buf := [] }) ∨
    (i = .reset [] ∧ t.rx = Deframer.atReset) := by
  cases exec_commandEnd h with
  | received b => exact .inr (.inl ⟨b, rfl, rfl⟩)
  | deframerCleared => exact .inr (.inr (.inl ⟨rfl, rfl⟩))
  | blockReset => exact .inr (.inr (.inr ⟨rfl, rfl⟩))
  | frameDecoded op => exact .inl (countsFrames_finishFrame s _).rx
  | registerRead | commandError | decodeError | completed | captureDecoded | countersCleared => exact .inl rfl

/-- Settles O16. -/
theorem onlyDeframerCommandsWriteTheDeframer : Obligations.OnlyDeframerCommandsWriteTheDeframer := by
  intro i s t h hi
  rcases exec_rx h with hrx | ⟨b, rfl, -⟩ | ⟨rfl, -⟩ | ⟨rfl, -⟩
  · exact hrx
  · exact absurd rfl (hi [b]).1
  · exact absurd rfl (hi []).2.1
  · exact absurd rfl (hi []).2.2

/-! ### One byte, by the deframer's mode -/

section Mode

variable {rx : Deframer} (m : Nat) (b : Byte)

theorem deframerStep_of_hunt (h : rx.state = .hunt) : deframerStep m rx b = rxHunt rx b := by
  simp only [deframerStep, h]

theorem deframerStep_of_addr (h : rx.state = .addr) : deframerStep m rx b = rxAddr rx b := by
  simp only [deframerStep, h]

theorem deframerStep_of_data (h : rx.state = .data) : deframerStep m rx b = rxData m rx b := by
  simp only [deframerStep, h]

theorem deframerStep_of_esc (h : rx.state = .esc) : deframerStep m rx b = rxEsc m rx b := by
  simp only [deframerStep, h]

end Mode

/-! ### The address -/

section Address

variable (rx : Deframer) (m : Nat) (b : Byte)

theorem rxAppend_addr : (rxAppend m rx b).rx.addr = rx.addr := by
  unfold rxAppend
  split <;> rfl

theorem rxHunt_addr : (rxHunt rx b).rx.addr = rx.addr := by
  unfold rxHunt
  split <;> rfl

theorem rxData_addr : (rxData m rx b).rx.addr = rx.addr := by
  unfold rxData
  split
  · rfl
  · split
    · rfl
    · exact rxAppend_addr rx m b

theorem rxEsc_addr : (rxEsc m rx b).rx.addr = rx.addr := by
  unfold rxEsc
  split
  · exact rxAppend_addr rx m fend
  · split
    · exact rxAppend_addr rx m fesc
    · split <;> rfl

/-- In ADDR a sentinel changes nothing, and any other byte is the address of a new frame (R99). -/
theorem rxAddr_cases :
    (b = fend ∧ (rxAddr rx b).rx = rx) ∨ (b ≠ fend ∧ (rxAddr rx b).rx = { state := .data, addr := b, buf := [] }) := by
  unfold rxAddr
  split
  · exact .inl ⟨by assumption, rfl⟩
  · exact .inr ⟨by assumption, rfl⟩

/-- The address is written on the ADDR to DATA transition alone (R25). -/
theorem deframerStep_addr :
    (deframerStep m rx b).rx.addr = rx.addr ∨
    (rx.state = .addr ∧ b ≠ fend ∧ (deframerStep m rx b).rx.state = .data ∧ (deframerStep m rx b).rx.addr = b) := by
  cases hstate : rx.state with
  | hunt =>
    rw [deframerStep_of_hunt m b hstate]
    exact .inl (rxHunt_addr rx b)
  | addr =>
    rw [deframerStep_of_addr m b hstate]
    rcases rxAddr_cases rx b with ⟨-, hrx⟩ | ⟨hb, hrx⟩ <;> rw [hrx]
    · exact .inl rfl
    · exact .inr ⟨rfl, hb, rfl, rfl⟩
  | data =>
    rw [deframerStep_of_data m b hstate]
    exact .inl (rxData_addr rx m b)
  | esc =>
    rw [deframerStep_of_esc m b hstate]
    exact .inl (rxEsc_addr rx m b)

end Address

theorem exec_fcRx_singleton (s : State) (b : Byte) :
    exec (.fcRx [b]) s = .next (s.finishRx (deframerStep s.cfg.val.rxbufMax s.rx b)) := by
  obtain ⟨t, ht⟩ := exec_total (.fcRx [b]) s
  rcases execFcRx_cases ht with ⟨hlen, -⟩ | ⟨c, hc, rfl⟩
  · have := one_le_maxOperand s
    simp only [List.length_singleton] at hlen
    omega
  · cases hc
    exact ht

/-- A byte in a register of 32 bits, as REG.RD returns it (R25, R51). -/
theorem u32be_setWidth_byte (a : Byte) : u32be (a.setWidth 32) = [0x00#8, 0x00#8, 0x00#8, a] := by
  have zero_above (k : Nat) (hk : 8 ≤ k) : (a.setWidth 32).extractLsb' k 8 = 0#8 := by
    ext j hj
    simp [BitVec.getLsbD_of_ge a (k + j) (by omega)]
  have low : (a.setWidth 32).extractLsb' 0 8 = a := by
    ext j hj
    simp [hj, show j < 32 by omega]
  simp [u32be, zero_above, low]

/-- Settles O17: of the commands that write the deframer, FC.RXRST keeps the address, and FC.RX keeps it by `deframerStep_addr`
except on the one transition. -/
theorem addressIsWrittenOnlyOnAddrToData : Obligations.AddressIsWrittenOnlyOnAddrToData := by
  refine ⟨fun i s t h hi => ?_, fun s t b hstate h ht => ?_, fun s => ?_⟩
  · rcases exec_rx h with hrx | ⟨b, rfl, hrx⟩ | ⟨-, hrx⟩ | ⟨rfl, -⟩
    · exact .inl (congrArg Deframer.addr hrx)
    · rw [hrx]
      rcases deframerStep_addr s.rx s.cfg.val.rxbufMax b with haddr | ⟨hstate, hb, hdata, haddr⟩
      · exact .inl haddr
      · exact .inr ⟨b, rfl, hstate, hb, hdata, haddr⟩
    · exact .inl (by rw [hrx])
    · exact absurd rfl (hi [])
  · rw [exec_fcRx_singleton, deframerStep_of_addr _ b hstate] at h
    cases h
    rw [State.finishRx_rx] at ht ⊢
    rcases rxAddr_cases s.rx b with ⟨-, hrx⟩ | ⟨-, hrx⟩ <;> rw [hrx] at ht ⊢
    rw [hstate] at ht
    cases ht
  · rw [exec_regRd_of_some (v := s.rx.addr.setWidth 32) rfl, u32be_setWidth_byte]

/-! ### The buffer -/

/-- What the invariant of the block says of the deframer: the buffer's bound, and that it is empty outside a frame (R26). -/
structure Deframer.BufferOk (m : Nat) (rx : Deframer) : Prop where
  bound : rx.buf.length ≤ m
  empty : rx.state = .hunt ∨ rx.state = .addr → rx.buf = []

theorem bufferOk_of_nil {m : Nat} {rx : Deframer} (h : rx.buf = []) : rx.BufferOk m :=
  ⟨by simp [h], fun _ => h⟩

/-- Inside a frame only the bound matters. -/
theorem bufferOk_of_inFrame {m : Nat} {rx : Deframer} (hb : rx.buf.length ≤ m) (h : rx.state = .data ∨ rx.state = .esc) :
    rx.BufferOk m :=
  ⟨hb, by rcases h with h | h <;> simp [h]⟩

section Buffer

variable {rx : Deframer} {m : Nat} (b : Byte)

/-- The room check of R102 is what keeps the bound. -/
theorem rxAppend_bufferOk : (rxAppend m rx b).rx.BufferOk m := by
  unfold rxAppend
  split
  · exact bufferOk_of_inFrame (by simpa) (.inl rfl)
  · exact bufferOk_of_nil rfl

theorem rxHunt_bufferOk (h : rx.BufferOk m) (hstate : rx.state = .hunt) : (rxHunt rx b).rx.BufferOk m := by
  unfold rxHunt
  split
  · exact bufferOk_of_nil (h.empty (.inl hstate))
  · exact h

theorem rxAddr_bufferOk (h : rx.BufferOk m) : (rxAddr rx b).rx.BufferOk m := by
  rcases rxAddr_cases rx b with ⟨-, hrx⟩ | ⟨-, hrx⟩ <;> rw [hrx]
  · exact h
  · exact bufferOk_of_nil rfl

theorem rxData_bufferOk (h : rx.BufferOk m) : (rxData m rx b).rx.BufferOk m := by
  unfold rxData
  split
  · exact bufferOk_of_nil rfl
  · split
    · exact bufferOk_of_inFrame h.bound (.inr rfl)
    · exact rxAppend_bufferOk b

theorem rxEsc_bufferOk : (rxEsc m rx b).rx.BufferOk m := by
  unfold rxEsc
  split
  · exact rxAppend_bufferOk fend
  · split
    · exact rxAppend_bufferOk fesc
    · split <;> exact bufferOk_of_nil rfl

theorem deframerStep_bufferOk (h : rx.BufferOk m) : (deframerStep m rx b).rx.BufferOk m := by
  cases hstate : rx.state with
  | hunt =>
    rw [deframerStep_of_hunt m b hstate]
    exact rxHunt_bufferOk b h hstate
  | addr =>
    rw [deframerStep_of_addr m b hstate]
    exact rxAddr_bufferOk b h
  | data =>
    rw [deframerStep_of_data m b hstate]
    exact rxData_bufferOk b h
  | esc =>
    rw [deframerStep_of_esc m b hstate]
    exact rxEsc_bufferOk b

end Buffer

theorem exec_bufferOk (hs : s.rx.BufferOk s.cfg.val.rxbufMax) (h : exec i s = .next t) :
    t.rx.BufferOk s.cfg.val.rxbufMax := by
  rcases exec_rx h with hrx | ⟨b, -, hrx⟩ | ⟨-, hrx⟩ | ⟨-, hrx⟩ <;> rw [hrx]
  · exact hs
  · exact deframerStep_bufferOk b hs
  · exact bufferOk_of_nil rfl
  · exact bufferOk_of_nil rfl

/-! ### The ports -/

theorem Status.code_mem_assignedCodes (st : Status) : st.code ∈ assignedCodes := by cases st <;> decide

theorem isPackets_nil : IsPackets [] := ⟨[], rfl, by simp⟩

theorem IsPackets.append_packet {bs : Bytes} (h : IsPackets bs) {st : Status} {r : Bytes} (hr : st.isError = true → r = []) :
    IsPackets (bs ++ packet st.code r) := by
  obtain ⟨ps, rfl, hps⟩ := h
  refine ⟨ps ++ [(st.code, r)], by simp, fun p hp => ?_⟩
  rcases List.mem_append.1 hp with hp | hp
  · exact hps p hp
  · rw [List.mem_singleton.1 hp]
    exact ⟨st.code_mem_assignedCodes, hr⟩

/-- The parser takes no packet before all of it is there (R67). -/
theorem decode_size_le {bs : Bytes} {n : Nat}
    (h : (∃ i, decode bs = .command i n) ∨ ∃ opc, decode bs = .illegalOpcode opc n) : n ≤ bs.length := by
  unfold decode at h
  split at h
  · dsimp only at h
    split at h
    · simp at h
    · simp only [List.length_cons]
      split at h <;> simp at h <;> omega
  · simp at h

/-! ### The invariant -/

theorem State.Inv.bufferOk (h : s.Inv) : s.rx.BufferOk s.cfg.val.rxbufMax := ⟨h.bufBound, h.bufEmpty⟩

theorem inv_resetWith (c : ValidConfig) : (State.resetWith c).Inv where
  bufBound := Nat.zero_le _
  bufEmpty := fun _ => rfl
  lastAssigned := Status.code_mem_assignedCodes .ok
  posBound := le_rfl
  packets := isPackets_nil

theorem State.Inv.advance (h : s.Inv) {n : Nat} (hn : n ≤ s.pending.length) : (s.advance n).Inv where
  bufBound := h.bufBound
  bufEmpty := h.bufEmpty
  lastAssigned := h.lastAssigned
  posBound := by
    have hpos := h.posBound
    rw [State.pending, List.length_drop] at hn
    rw [State.advance_cmdPos, State.advance_cmdStream]
    omega
  packets := h.packets

/-- An answer keeps the invariant where the command's work on the deframer does. -/
theorem State.Inv.of_answers {quiet : Bool} (h : s.Inv) (ha : Answers quiet s t)
    (hrx : t.rx.BufferOk s.cfg.val.rxbufMax) : t.Inv := by
  obtain ⟨hcfg, hstream, hpos, st, r, hrsp, hr, hlast⟩ := ha
  refine ⟨hcfg ▸ hrx.bound, hrx.empty, ?_, ?_, ?_⟩
  · rw [hlast]
    split
    · exact h.lastAssigned
    · exact st.code_mem_assignedCodes
  · rw [hpos, hstream]
    exact h.posBound
  · rw [hrsp]
    exact h.packets.append_packet hr

theorem exec_keeps_inv (hs : s.Inv) (h : exec i s = .next t) : t.Inv :=
  hs.of_answers (exec_answers h) (exec_bufferOk hs.bufferOk h)

/-- Settles O11: moving past a packet that has arrived keeps the invariant, and so does the answer that follows. -/
theorem invariantKeptByEveryStep : Obligations.InvariantKeptByEveryStep := by
  intro s t hs h
  rcases step_cases h with ⟨i, n, hfetch, hexec⟩ | ⟨opc, n, hfetch, rfl⟩ | ⟨-, rfl⟩
  · exact exec_keeps_inv (hs.advance (decode_size_le (.inl ⟨i, hfetch⟩))) hexec
  · have hadv := hs.advance (decode_size_le (.inr ⟨opc, hfetch⟩))
    exact hadv.of_answers (illegalOpcode_answers _) hadv.bufferOk
  · exact hs

/-- Settles O12. -/
theorem invariantHoldsAtReset : Obligations.InvariantHoldsAtReset :=
  ⟨inv_resetWith referenceConfig, inv_resetWith⟩

end Sys2Proof.Machine
end

section
/-! What each of the six counters counts (10_state.md rules R33, R43). -/

namespace Sys2Proof.Machine

variable {s t : State} {i : Instr}

/-! ### The counters of FC.RX, by the status byte -/

theorem Counters.countRx_rxFrames (c : Counters) (st : Status) :
    (c.countRx st).rxFrames = if st.code = 0x01#8 then c.rxFrames + 1#32 else c.rxFrames := by
  cases st <;> rfl

theorem Counters.countRx_rxErrors (c : Counters) (st : Status) :
    (c.countRx st).rxErrors =
      if st.code ∈ [0x90#8, 0x91#8, 0x92#8] then c.rxErrors + 1#32 else c.rxErrors := by
  cases st <;> rfl

/-! ### What leaves the counters of FC.RX alone -/

@[simp] theorem Counters.ite_countCmdError_rxFrames (c : Counters) (b : Bool) :
    (if b = true then c.countCmdError else c).rxFrames = c.rxFrames := by cases b <;> rfl

@[simp] theorem Counters.ite_countCmdError_rxErrors (c : Counters) (b : Bool) :
    (if b = true then c.countCmdError else c).rxErrors = c.rxErrors := by cases b <;> rfl

theorem finishFrame_rxCounters (s : State) (res : FrameResult) :
    (s.finishFrame res).cnt.rxFrames = s.cnt.rxFrames ∧ (s.finishFrame res).cnt.rxErrors = s.cnt.rxErrors := by
  rcases finishFrame_cases s res with ⟨reason, -, h⟩ | ⟨r, -, -, h⟩ | ⟨r, -, -, h⟩ <;> rw [h] <;> simp

/-! ### `CNT_CLEAN`, `CNT_DEGRADED`, `CNT_DROPPED` -/

/-- The frame counters grow by the frames a command locates, whatever the command. -/
theorem exec_countsLocatedFrames (h : exec i s = .next t) (hclr : i ≠ .cntClr []) (hreset : i ≠ .reset []) :
    t.cnt.clean = s.cnt.clean + BitVec.ofNat 32 ((locatedFrames s.cfg.val i).countP FrameResult.isClean) ∧
    t.cnt.degraded = s.cnt.degraded + BitVec.ofNat 32 ((locatedFrames s.cfg.val i).countP FrameResult.isDegraded) ∧
    t.cnt.dropped = s.cnt.dropped + BitVec.ofNat 32 ((locatedFrames s.cfg.val i).countP FrameResult.isDrop) := by
  cases exec_commandEnd h with
  | commandError _ hnone | decodeError _ _ hnone | completed _ _ hnone => simp [hnone]
  | frameDecoded | captureDecoded =>
    obtain ⟨-, hclean, hdegraded, hdropped⟩ := exec_countsFrames rfl h
    exact ⟨hclean, hdegraded, hdropped⟩
  | registerRead | received | deframerCleared => simp [locatedFrames]
  | countersCleared => exact absurd rfl hclr
  | blockReset => exact absurd rfl hreset

/-! ### `CNT_RX_FRAMES`, `CNT_RX_ERRORS` -/

/-- The counters of FC.RX move with the status of FC.RX, and with no other command. A length error of FC.RX is not among the
statuses they count. -/
theorem exec_rxCounters (h : exec i s = .next t) (hclr : i ≠ .cntClr []) (hreset : i ≠ .reset []) :
    t.cnt.rxFrames = (if isFcRx i = true ∧ t.lastSts = 0x01#8 then s.cnt.rxFrames + 1#32 else s.cnt.rxFrames) ∧
    t.cnt.rxErrors = (if isFcRx i = true ∧ t.lastSts ∈ [0x90#8, 0x91#8, 0x92#8]
      then s.cnt.rxErrors + 1#32 else s.cnt.rxErrors) := by
  cases exec_commandEnd h with
  | received b => simp [isFcRx, Counters.countRx_rxFrames, Counters.countRx_rxErrors]
  | commandError _ _ hst => rcases hst with rfl | rfl <;> simp [Status.code]
  | decodeError _ hrx => simp [hrx]
  | completed => simp [Status.code]
  | frameDecoded op =>
    obtain ⟨hframes, herrors⟩ := finishFrame_rxCounters s (decodeFrame s.cfg.val op 0)
    simp [isFcRx, hframes, herrors]
  | registerRead | captureDecoded | deframerCleared => simp [isFcRx]
  | countersCleared => exact absurd rfl hclr
  | blockReset => exact absurd rfl hreset

/-! ### `CNT_CMD_ERRORS` -/

/-- `CNT_CMD_ERRORS` and `LAST_STS` after a command: the counter grew, and the status is BAD_LENGTH or BAD_OPERAND; or it
stayed, and the status is neither. -/
def CountsCmdError (s t : State) : Prop :=
  t.cnt.cmdErrors = if t.lastSts = 0x81#8 ∨ t.lastSts = 0x82#8 then s.cnt.cmdErrors + 1#32 else s.cnt.cmdErrors

theorem countsCmdError_finishRx (s : State) (m : Nat) (b : Byte) :
    CountsCmdError s (s.finishRx (deframerStep m s.rx b)) := by
  unfold CountsCmdError
  rw [State.finishRx_lastSts]
  rcases deframerStep_status m s.rx b with ⟨h, -⟩ | ⟨-, h⟩
  · simp [h, Status.code]
  · simp only [List.mem_cons, List.not_mem_nil, or_false] at h
    rcases h with h | h | h | h <;> simp [h, Status.code]

/-- The reasons for a drop are no command errors (R198, R226). -/
theorem countsCmdError_finishFrame (s : State) (c : Config) (body : Bytes) (off : Nat) :
    CountsCmdError s (s.finishFrame (decodeFrame c body off)) := by
  unfold CountsCmdError
  rcases finishFrame_cases s (decodeFrame c body off) with ⟨reason, hdrop, h⟩ | ⟨r, -, -, h⟩ | ⟨r, -, -, h⟩ <;> rw [h]
  · rcases decodeFrame_cases c body off with ⟨-, hd⟩ | ⟨-, hd⟩ | ⟨-, -, hd⟩ <;> rw [hd] at hdrop <;> cases hdrop
    · rfl
    · rfl
  · rfl
  · rfl

theorem exec_countsCmdError (h : exec i s = .next t) (hclr : i ≠ .cntClr []) (hreset : i ≠ .reset [])
    (hrd : isRegRd i = false) : CountsCmdError s t := by
  cases exec_commandEnd h with
  | registerRead => cases hrd
  | commandError _ _ hst => rcases hst with rfl | rfl <;> rfl
  | decodeError _ _ _ hst => rcases hst with rfl | rfl | rfl <;> rfl
  | received b => exact countsCmdError_finishRx s _ b
  | frameDecoded op => exact countsCmdError_finishFrame s _ op 0
  | completed | captureDecoded | deframerCleared => rfl
  | countersCleared => exact absurd rfl hclr
  | blockReset => exact absurd rfl hreset

theorem exec_regRd_cnt {op : Bytes} (h : exec (.regRd op) s = .next t) : t.cnt = s.cnt := by
  cases exec_commandEnd h with
  | registerRead => rfl
  | commandError hrd | decodeError hrd | completed _ hrd => cases hrd

theorem exec_cmdErrors (h : exec i s = .next t) (hclr : i ≠ .cntClr []) (hreset : i ≠ .reset []) :
    t.cnt.cmdErrors = if isRegRd i = false ∧ (t.lastSts = 0x81#8 ∨ t.lastSts = 0x82#8)
      then s.cnt.cmdErrors + 1#32 else s.cnt.cmdErrors := by
  cases hrd : isRegRd i with
  | false => simpa [CountsCmdError] using exec_countsCmdError h hclr hreset hrd
  | true =>
    cases i with
    | regRd op => simp [exec_regRd_cnt h]
    | _ => cases hrd

/-- Settles O18. -/
theorem countersCountTheirEvents : Obligations.CountersCountTheirEvents := by
  refine ⟨fun i s t h hclr hreset => ?_, fun s t opc n hfetch hstep => ?_⟩
  · obtain ⟨hclean, hdegraded, hdropped⟩ := exec_countsLocatedFrames h hclr hreset
    obtain ⟨hframes, herrors⟩ := exec_rxCounters h hclr hreset
    exact ⟨hclean, hdegraded, hdropped, hframes, herrors, exec_cmdErrors h hclr hreset⟩
  · rw [step_of_illegalOpcode hfetch] at hstep
    cases hstep
    rfl

/-! ### Wrapping -/

section Wrap

variable {c : Counters}

theorem Counters.countCmdError_of_full (h : c.cmdErrors = 0xFFFFFFFF#32) :
    c.countCmdError = { c with cmdErrors := 0#32 } := by simp [Counters.countCmdError, h]

theorem Counters.addFrames_dropped_of_full (h : c.dropped = 0xFFFFFFFF#32) :
    c.addFrames 0 0 1 = { c with dropped := 0#32 } := by simp [Counters.addFrames, h]

theorem Counters.addFrames_clean_of_full (h : c.clean = 0xFFFFFFFF#32) :
    c.addFrames 1 0 0 = { c with clean := 0#32 } := by simp [Counters.addFrames, h]

theorem Counters.addFrames_degraded_of_full (h : c.degraded = 0xFFFFFFFF#32) :
    c.addFrames 0 1 0 = { c with degraded := 0#32 } := by simp [Counters.addFrames, h]

theorem Counters.countRx_okFrame_of_full (h : c.rxFrames = 0xFFFFFFFF#32) :
    c.countRx .okFrame = { c with rxFrames := 0#32 } := by simp [Counters.countRx, Status.isRxError, h]

theorem Counters.countRx_incompleteEscape_of_full (h : c.rxErrors = 0xFFFFFFFF#32) :
    c.countRx .incompleteEscape = { c with rxErrors := 0#32 } := by simp [Counters.countRx, Status.isRxError, h]

end Wrap

theorem exec_nop_of_ne_nil {op : Bytes} (s : State) (hop : op ≠ []) : exec (.nop op) s = .next (s.raise .badLength) := by
  obtain ⟨t, ht⟩ := exec_total (.nop op) s
  rcases execNop_cases ht with ⟨-, rfl⟩ | ⟨hnil, -⟩
  · exact ht
  · exact absurd hnil hop

theorem exec_paFrame_of_le {op : Bytes} (h : op.length ≤ s.cfg.val.maxOperand) :
    exec (.paFrame op) s = .next (s.finishFrame (decodeFrame s.cfg.val op 0)) := by
  obtain ⟨t, ht⟩ := exec_total (.paFrame op) s
  rcases execPaFrame_cases ht with ⟨hlt, -⟩ | ⟨-, rfl⟩
  · omega
  · exact ht

/-- A sentinel in DATA ends the frame (R100). -/
theorem rxData_sentinel (m : Nat) (rx : Deframer) :
    rxData m rx 0xC0#8 =
      { status := .okFrame, result := rx.addr :: rx.buf, rx := { rx with state := .addr, buf := [] } } := if_pos rfl

/-- A sentinel in ESC is an incomplete escape (R101). -/
theorem rxEsc_sentinel (m : Nat) (rx : Deframer) :
    rxEsc m rx 0xC0#8 =
      { status := .incompleteEscape, result := [], rx := { rx with state := .addr, buf := [] } } := rfl

/-- Settles O22: one command for each counter, whose increment wraps by the lemma above. -/
theorem countersWrap : Obligations.CountersWrap := by
  refine ⟨fun s h => ?_, fun s h => ?_, fun s op r hlen hrec => ⟨fun hclean h => ?_, fun hdegraded h => ?_⟩,
    fun s hstate h => ?_, fun s hstate h => ?_⟩
  · rw [exec_nop_of_ne_nil s (by simp), ← Counters.countCmdError_of_full h]
    rfl
  · rw [exec_paFrame_of_le (Nat.zero_le _), ← Counters.addFrames_dropped_of_full h]
    rfl
  · rw [exec_paFrame_of_le hlen, hrec, ← Counters.addFrames_clean_of_full h, State.finishFrame, if_pos hclean]
    rfl
  · rw [exec_paFrame_of_le hlen, hrec, ← Counters.addFrames_degraded_of_full h, State.finishFrame,
      if_neg (by simp [hdegraded])]
    rfl
  · rw [exec_fcRx_singleton, deframerStep_of_data _ _ hstate, rxData_sentinel, ← Counters.countRx_okFrame_of_full h]
    rfl
  · rw [exec_fcRx_singleton, deframerStep_of_esc _ _ hstate, rxEsc_sentinel, ← Counters.countRx_incompleteEscape_of_full h]
    rfl

end Sys2Proof.Machine
end

section
/-! Where the markers of a capture stand, and how much of the capture its frames take up (41_delimiter.md rules R117 to R121).
Two markers never overlap, so the extents of the frames are disjoint and each holds the 4 bytes of its marker. -/

namespace Sys2Proof.Machine

/-! ### The marker search, byte by byte -/

theorem markersFrom_cons_of_not_prefix {o : Nat} {b : Byte} {bs : Bytes} (h : ¬marker <+: b :: bs) :
    markersFrom o (b :: bs) = markersFrom (o + 1) bs :=
  if_neg (by rwa [List.isPrefixOf_iff_prefix])

/-- After a match the search finds nothing in the marker's other three bytes: none of them begins a marker. -/
theorem markersFrom_marker_append (o : Nat) (rest : Bytes) :
    markersFrom o (marker ++ rest) = o :: markersFrom (o + 4) rest := by
  simp [marker, markersFrom]

/-! ### Disjoint extents -/

/-- The offsets stand at `lo` or after it, each at least 4 bytes after the one before, the last at least 4 bytes before `hi`: there
is room for a marker at every one of them. -/
def RoomForMarkers (hi : Nat) : Nat → List Nat → Prop
  | _, [] => True
  | lo, o :: os => lo ≤ o ∧ o + 4 ≤ hi ∧ RoomForMarkers hi (o + 4) os

theorem RoomForMarkers.mono {hi lo lo' : Nat} (hlo : lo' ≤ lo) :
    ∀ {os : List Nat}, RoomForMarkers hi lo os → RoomForMarkers hi lo' os
  | [], h => h
  | _ :: _, ⟨h, hrest⟩ => ⟨hlo.trans h, hrest⟩

theorem markersFrom_roomForMarkers (o : Nat) (bs : Bytes) :
    RoomForMarkers (o + bs.length) o (markersFrom o bs) := by
  match bs with
  | [] => exact trivial
  | b :: bs =>
    by_cases h : marker <+: b :: bs
    · obtain ⟨rest, hrest⟩ := h
      have hlen : bs.length + 1 = 4 + rest.length := by rw [← List.length_cons, ← hrest, List.length_append]; rfl
      have ih := markersFrom_roomForMarkers (o + 4) rest
      rw [List.length_cons, hlen, ← hrest, markersFrom_marker_append, ← Nat.add_assoc]
      exact ⟨le_rfl, Nat.le_add_right _ _, ih⟩
    · have ih := markersFrom_roomForMarkers (o + 1) bs
      rw [markersFrom_cons_of_not_prefix h, List.length_cons, Nat.add_comm bs.length, ← Nat.add_assoc]
      exact ih.mono (Nat.le_succ o)
termination_by bs.length

theorem markerOffsets_roomForMarkers (buf : Bytes) : RoomForMarkers buf.length 0 (markerOffsets buf) := by
  simpa [markerOffsets] using markersFrom_roomForMarkers 0 buf

/-- Every extent has room for its marker and ends inside the buffer (R121). -/
theorem RoomForMarkers.mem_frameExtents {total lo : Nat} {os : List Nat} (h : RoomForMarkers total lo os) :
    ∀ oe ∈ frameExtents total os, oe.1 + 4 ≤ oe.2 ∧ oe.2 ≤ total := by
  induction os using frameExtents.induct generalizing lo with
  | case1 => simp [frameExtents]
  | case2 o =>
    obtain ⟨-, hend, -⟩ := h
    simpa [frameExtents] using hend
  | case3 o o' rest ih =>
    obtain ⟨-, -, hrest⟩ := h
    have ⟨hgap, hend, _⟩ := hrest
    simp only [frameExtents, List.forall_mem_cons]
    exact ⟨⟨hgap, by omega⟩, ih hrest⟩

/-- The extents are disjoint: together they are no longer than what follows `lo`. -/
theorem RoomForMarkers.sum_frameExtents_le {total lo : Nat} {os : List Nat} (h : RoomForMarkers total lo os) :
    ((frameExtents total os).map fun oe => oe.2 - oe.1).sum ≤ total - lo := by
  induction os using frameExtents.induct generalizing lo with
  | case1 => simp [frameExtents]
  | case2 o =>
    obtain ⟨hlo, -, -⟩ := h
    simpa [frameExtents] using Nat.sub_le_sub_left hlo total
  | case3 o o' rest ih =>
    obtain ⟨hlo, -, hgap, hend, hrest⟩ := h
    have hsum := ih (lo := o') ⟨le_rfl, hend, hrest⟩
    simp only [frameExtents, List.map_cons, List.sum_cons]
    omega

theorem RoomForMarkers.four_mul_length_le {hi lo : Nat} {os : List Nat} (h : RoomForMarkers hi lo os) :
    4 * os.length ≤ hi - lo := by
  induction os generalizing lo with
  | nil => exact Nat.zero_le _
  | cons o os ih =>
    obtain ⟨hlo, hend, hrest⟩ := h
    have := ih hrest
    rw [List.length_cons]
    omega

/-- A buffer holds at most one marker for every 4 bytes. -/
theorem four_mul_length_markerOffsets_le (buf : Bytes) : 4 * (markerOffsets buf).length ≤ buf.length :=
  (markerOffsets_roomForMarkers buf).four_mul_length_le

end Sys2Proof.Machine
end

section
/-! How long the results of the commands are (20_memory.md rule R63, 30_encoding.md rule R82). -/

namespace Sys2Proof.Machine

/-! ### FrameCodec -/

theorem escapeByte_length_le (b : Byte) : (escapeByte b).length ≤ 2 := by
  unfold escapeByte
  split
  · exact le_rfl
  · split
    · exact le_rfl
    · exact Nat.le_succ 1

/-- ESCAPE at most doubles the length (R92). -/
theorem escape_length_le (d : Bytes) : (escape d).length ≤ 2 * d.length := by
  induction d with
  | nil => exact le_rfl
  | cons b d ih =>
    have hcons : escape (b :: d) = escapeByte b ++ escape d := List.flatMap_cons
    have hb := escapeByte_length_le b
    rw [hcons, List.length_append, List.length_cons]
    omega

theorem exceptMap_cons_eq_ok {b : Byte} {p : Except Status Bytes} {r : Bytes} (h : p.map (b :: ·) = .ok r) :
    ∃ r', p = .ok r' ∧ r = b :: r' := by
  cases p with
  | error st => cases h
  | ok r' => exact ⟨r', rfl, by cases h; rfl⟩

/-- UNESCAPE never lengthens (R82, R93). -/
theorem unescape_length_le {d r : Bytes} (h : unescape d = .ok r) : r.length ≤ d.length := by
  induction d using unescape.induct generalizing r with
  | case1 => cases h; exact le_rfl
  | case2 => simp [unescape] at h
  | case3 b hb =>
    simp only [unescape, hb, if_false] at h
    cases h
    exact le_rfl
  | case4 rest ih =>
    simp only [unescape, if_true] at h
    obtain ⟨r', hr', rfl⟩ := exceptMap_cons_eq_ok h
    have := ih hr'
    simp only [List.length_cons]
    omega
  | case5 rest hne ih =>
    simp only [unescape, if_true, hne, if_false] at h
    obtain ⟨r', hr', rfl⟩ := exceptMap_cons_eq_ok h
    have := ih hr'
    simp only [List.length_cons]
    omega
  | case6 c rest h1 h2 => simp [unescape, h1, h2] at h
  | case7 b c rest hb ih =>
    simp only [unescape, hb, if_false] at h
    obtain ⟨r', hr', rfl⟩ := exceptMap_cons_eq_ok h
    have := ih hr'
    simp only [List.length_cons] at this ⊢
    omega

theorem frameBytes_length (a : Byte) (d : Bytes) : (frameBytes a d).length = (escape d).length + 3 := by
  simp [frameBytes]

/-- FC.RX delivers at most the address and a full buffer (R82, R100). -/
theorem deframerStep_result_length_le (m : Nat) (rx : Deframer) (b : Byte) :
    (deframerStep m rx b).result.length ≤ rx.buf.length + 1 := by
  rcases deframerStep_status m rx b with ⟨-, h⟩ | ⟨h, -⟩ <;> rw [h]
  · exact le_rfl
  · exact Nat.zero_le _

/-! ### DelimiterLocator -/

/-- The result of DL.FIND: 4 bytes for each match and for the sentinel (R82, R118). -/
theorem dlFind_result_length (buf : Bytes) :
    ((locate buf).flatMap fun v => u32be (BitVec.ofInt 32 v)).length = 4 * ((markerOffsets buf).length + 1) := by
  simp [List.length_flatMap, locate, Function.comp_def]; omega

/-! ### Descrambler -/

@[simp] theorem unpackBits_length (blk : Bytes) : (unpackBits blk).length = 8 * blk.length := by
  simp [unpackBits, List.length_flatMap, byteBits]; omega

@[simp] theorem packBits_length (bits : List Bool) : (packBits bits).length = bits.length / 8 := by
  induction bits using packBits.induct with
  | case1 b7 b6 b5 b4 b3 b2 b1 b0 rest ih =>
    simp only [packBits, List.length_cons, ih]
    omega
  | case2 bits h =>
    rw [packBits.eq_2 bits h]
    have hlt : bits.length < 8 := by
      match bits, h with
      | [], _ | [_], _ | [_, _], _ | [_, _, _], _ | [_, _, _, _], _ | [_, _, _, _, _], _ | [_, _, _, _, _, _], _
      | [_, _, _, _, _, _, _], _ => simp
      | _ :: _ :: _ :: _ :: _ :: _ :: _ :: _ :: _, h => exact absurd rfl (h _ _ _ _ _ _ _ _ _)
    simp [Nat.div_eq_of_lt hlt]

@[simp] theorem descrambleBits_length (s0 : BitVec 9) (bits : List Bool) :
    (descrambleBits s0 bits).length = bits.length := by
  induction bits generalizing s0 with
  | nil => rfl
  | cons b bits ih => simp [descrambleBits, ih]

/-- DESCRAMBLE keeps the length (R82). -/
@[simp] theorem descramble_length (blk : Bytes) (s0 : BitVec 9) : (descramble blk s0).length = blk.length := by
  simp [descramble]

/-! ### BlockFEC -/

@[simp] theorem checkByte_length (good : Bool) : (checkByte good).length = 1 := rfl

/-! ### PacketAssembler -/

/-- No slice of a body is longer than its field (R188). -/
theorem bodyFields_length_le (pos : SparePos) (p : Nat) (body : Bytes) :
    (bodyFields pos p body).hr.length ≤ 13 ∧ (bodyFields pos p body).hp.length ≤ 2 ∧
    (bodyFields pos p body).pr.length ≤ p ∧ (bodyFields pos p body).pp.length ≤ 16 ∧
    (bodyFields pos p body).ec.length ≤ 4 := by
  simp only [bodyFields, slice_length]
  omega

/-- A region carries no more bytes than it had data (R190, R191). -/
theorem decodeRegion_bytes_length_le (c : Config) (data parity : Bytes) (t : Nat) :
    (decodeRegion c data parity t).bytes.length ≤ data.length := by
  unfold decodeRegion
  split
  · simp
  · split
    · simp
    · exact le_rfl

theorem Record.bytes_length (r : Record) :
    r.bytes.length = 12 + r.header.bytes.length + r.headerParity.length + r.payloadParity.length
      + r.encodedChecksum.length + r.payload.bytes.length := by
  simp [Record.bytes]; omega

/-- A record is at most `47 + P` bytes long (R195). -/
theorem decodeBody_bytes_length_le (c : Config) (body : Bytes) (off : Nat) :
    (decodeBody c body off).bytes.length ≤ 47 + (body.length - 36) := by
  obtain ⟨hhr, hhp, hpr, hpp, hec⟩ := bodyFields_length_le c.sparePos (body.length - 36) body
  have hheader := decodeRegion_bytes_length_le c (bodyFields c.sparePos (body.length - 36) body).hr
    (bodyFields c.sparePos (body.length - 36) body).hp hparLen
  have hpayload := decodeRegion_bytes_length_le c (bodyFields c.sparePos (body.length - 36) body).pr
    (bodyFields c.sparePos (body.length - 36) body).pp pparLen
  have hlen := Record.bytes_length (decodeBody c body off)
  simp only [decodeBody, show overhead = 36 from rfl] at hlen ⊢
  omega

/-- What a located frame adds to the result of PA.CAPT is at most 5/4 of its extent, marker included: 5 bytes for a drop, whose
extent is at least the 4 bytes of the marker, and `47 + P` for a record, whose extent is `40 + P`. -/
theorem decodeFrame_contribution_le (c : Config) (body : Bytes) (off o : Nat) :
    4 * ((decodeFrame c body off).recordBytes.length + ((decodeFrame c body off).dropEntry o).length)
      ≤ 5 * (body.length + 4) := by
  rcases decodeFrame_cases c body off with ⟨-, h⟩ | ⟨-, h⟩ | ⟨hshort, -, h⟩ <;> rw [h]
  · simp [FrameResult.recordBytes, FrameResult.dropEntry]
    omega
  · simp [FrameResult.recordBytes, FrameResult.dropEntry]
    omega
  · have := decodeBody_bytes_length_le c body off
    simp only [FrameResult.recordBytes, FrameResult.dropEntry, List.length_nil]
    omega

theorem captureResult_length (fs : List (Nat × FrameResult)) :
    (captureResult fs).length =
      16 + (fs.map fun f => f.2.recordBytes.length + (f.2.dropEntry f.1).length).sum := by
  simp [captureResult, List.length_flatMap, List.sum_map_add]; omega

/-- The result of PA.CAPT is at most 16 bytes and 5/4 of the capture: the extents are disjoint. -/
theorem captureResult_length_le (c : Config) (cap : Bytes) :
    4 * (captureResult (captureFrames c cap)).length ≤ 64 + 5 * cap.length := by
  have hroom := markerOffsets_roomForMarkers cap
  have hframe : ∀ oe ∈ frameExtents cap.length (markerOffsets cap),
      4 * ((decodeFrame c (slice (oe.1 + 4) oe.2 cap) oe.1).recordBytes.length
        + ((decodeFrame c (slice (oe.1 + 4) oe.2 cap) oe.1).dropEntry oe.1).length) ≤ 5 * (oe.2 - oe.1) := by
    intro oe hoe
    obtain ⟨hmarker, hend⟩ := hroom.mem_frameExtents oe hoe
    have hlen : (slice (oe.1 + 4) oe.2 cap).length + 4 = oe.2 - oe.1 := by
      rw [slice_length]
      omega
    exact hlen ▸ decodeFrame_contribution_le c _ _ _
  have hsum := List.sum_le_sum hframe
  have hextents := hroom.sum_frameExtents_le
  rw [List.sum_map_mul_left, List.sum_map_mul_left] at hsum
  rw [captureResult_length, captureFrames, List.map_map]
  simp only [Function.comp_def]
  omega

end Sys2Proof.Machine
end

section
/-! Every response's result fits the 32-bit `RLEN` field, as long as `MAX_OPERAND ≤ 2^31 − 1` (20_memory.md rule R63). -/

namespace Sys2Proof.Machine

variable {s t : State} {i : Instr}

/-- The block has added one response, whose result is shorter than 2^32 bytes. -/
def AnswersShort (s t : State) : Prop :=
  ∃ (st : Status) (r : Bytes), r.length < 2 ^ 32 ∧ t.rspStream = s.rspStream ++ responsePacket st r

theorem answersShort_raise (s : State) (st : Status) : AnswersShort s (s.raise st) :=
  ⟨st, [], by decide, rfl⟩

theorem answersShort_respond (st : Status) {r : Bytes} (h : r.length < 2 ^ 32) : AnswersShort s (s.respond st r) :=
  ⟨st, r, h, rfl⟩

theorem answersShort_finishRx (m : Nat) (b : Byte) (h : s.rx.buf.length ≤ 65535) :
    AnswersShort s (s.finishRx (deframerStep m s.rx b)) := by
  have := deframerStep_result_length_le m s.rx b
  exact ⟨_, _, by omega, rfl⟩

/-- A decoded block is no longer than the codeword (R156). -/
theorem answersShort_finishDecode {r : Bytes} (n : Nat) (h : r.length ≤ 255) : AnswersShort s (s.finishDecode r n) := by
  rcases finishDecode_cases s r n with ⟨-, hend⟩ | ⟨w, d, -, hend⟩ <;> rw [hend]
  · exact answersShort_raise s _
  · refine answersShort_respond .ok ?_
    simp only [List.length_append, List.length_take, List.length_singleton]
    omega

theorem answersShort_finishFrame {res : FrameResult} (h : res.recordBytes.length < 2 ^ 32) :
    AnswersShort s (s.finishFrame res) := by
  rcases finishFrame_cases s res with ⟨reason, -, hend⟩ | ⟨r, rfl, -, hend⟩ | ⟨r, rfl, -, hend⟩ <;> rw [hend]
  · exact ⟨reason, [], by decide, rfl⟩
  · exact ⟨.ok, r.bytes, h, rfl⟩
  · exact ⟨.ok, r.bytes, h, rfl⟩

theorem answersShort_answerRegister (s : State) (j : Byte) : AnswersShort s (s.answerRegister j) := by
  rcases answerRegister_cases s j with ⟨v, -, h⟩ | ⟨-, h⟩ <;> rw [h]
  · exact ⟨.ok, u32be v, by rw [u32be_length]; decide, rfl⟩
  · exact ⟨.badOperand, [], by decide, rfl⟩

/-- The length of every command's result, by the command (R63). -/
theorem exec_answersShort (hbuf : s.rx.buf.length ≤ 65535) (hmax : s.cfg.val.maxOperand ≤ 2 ^ 31 - 1)
    (h : exec i s = .next t) : AnswersShort s t := by
  cases i with
  | fcEsc op =>
    rcases execFcEsc_cases h with ⟨-, rfl⟩ | ⟨hlen, rfl⟩
    · exact answersShort_raise s _
    · have := escape_length_le op
      exact answersShort_respond .ok (by omega)
  | fcUnesc op =>
    rcases execFcUnesc_cases h with ⟨-, rfl⟩ | ⟨hlen, ⟨st, -, rfl⟩ | ⟨r, hr, rfl⟩⟩
    · exact answersShort_raise s _
    · exact answersShort_raise s _
    · have := unescape_length_le hr
      exact answersShort_respond .ok (by omega)
  | fcFrame op =>
    rcases execFcFrame_cases h with ⟨-, rfl⟩ | ⟨a, d, rfl, hlen, ⟨-, rfl⟩ | ⟨-, rfl⟩⟩
    · exact answersShort_raise s _
    · exact answersShort_raise s _
    · have := escape_length_le d
      rw [List.length_cons] at hlen
      exact answersShort_respond .ok (by rw [frameBytes_length]; omega)
  | fcRx op =>
    rcases execFcRx_cases h with ⟨-, rfl⟩ | ⟨b, -, rfl⟩
    · exact answersShort_raise s _
    · exact answersShort_finishRx _ b hbuf
  | fcRxrst op =>
    rcases execFcRxrst_cases h with ⟨-, rfl⟩ | ⟨-, rfl⟩
    · exact answersShort_raise s _
    · exact ⟨.ok, [], by decide, rfl⟩
  | dlFind op =>
    rcases execDlFind_cases h with ⟨-, rfl⟩ | ⟨hlen, rfl⟩
    · exact answersShort_raise s _
    · have := four_mul_length_markerOffsets_le op
      exact answersShort_respond .ok (by rw [dlFind_result_length]; omega)
  | dsDesc op =>
    rcases execDsDesc_cases h with ⟨-, rfl⟩ | ⟨hlen, rfl⟩
    · exact answersShort_raise s _
    · exact answersShort_respond .ok (by rw [descramble_length]; omega)
  | dsDescs op =>
    rcases execDsDescs_cases h with ⟨-, rfl⟩ | ⟨b1, b0, blk, rfl, hlen, ⟨-, rfl⟩ | ⟨-, rfl⟩⟩
    · exact answersShort_raise s _
    · exact answersShort_raise s _
    · simp only [List.length_cons] at hlen
      exact answersShort_respond .ok (by rw [descramble_length]; omega)
  | fecHchk op =>
    rcases execFecHchk_cases h with ⟨-, rfl⟩ | ⟨-, -, rfl⟩
    · exact answersShort_raise s _
    · exact answersShort_respond .ok (by rw [checkByte_length]; decide)
  | fecHdec op =>
    rcases execFecHdec_cases h with ⟨-, rfl⟩ | ⟨-, hlen, rfl⟩
    · exact answersShort_raise s _
    · exact answersShort_finishDecode 2 (by omega)
  | fecPchk op =>
    rcases execFecPchk_cases h with ⟨-, rfl⟩ | ⟨-, -, -, rfl⟩
    · exact answersShort_raise s _
    · exact answersShort_respond .ok (by rw [checkByte_length]; decide)
  | fecPdec op =>
    rcases execFecPdec_cases h with ⟨-, rfl⟩ | ⟨-, -, hlen, rfl⟩
    · exact answersShort_raise s _
    · exact answersShort_finishDecode 16 hlen
  | crRec op =>
    rcases execCrRec_cases h with ⟨-, rfl⟩ | ⟨-, -, rfl⟩
    · exact answersShort_raise s _
    · exact answersShort_respond .ok (by rw [u16be_length]; decide)
  | crcCalc op =>
    rcases execCrcCalc_cases h with ⟨-, rfl⟩ | ⟨-, rfl⟩
    · exact answersShort_raise s _
    · exact answersShort_respond .ok (by rw [u16be_length]; decide)
  | crcRef op =>
    rcases execCrcRef_cases h with ⟨-, rfl⟩ | ⟨-, rfl⟩
    · exact answersShort_raise s _
    · exact answersShort_respond .ok (by rw [u16be_length]; decide)
  | paFrame op =>
    rcases execPaFrame_cases h with ⟨-, rfl⟩ | ⟨hlen, rfl⟩
    · exact answersShort_raise s _
    · have := decodeFrame_contribution_le s.cfg.val op 0 0
      exact answersShort_finishFrame (by omega)
  | paCapt op =>
    rcases execPaCapt_cases h with ⟨-, rfl⟩ | ⟨hlen, rfl⟩
    · exact answersShort_raise s _
    · have := captureResult_length_le s.cfg.val op
      exact ⟨.ok, _, by omega, rfl⟩
  | nop op =>
    rcases execNop_cases h with ⟨-, rfl⟩ | ⟨-, rfl⟩
    · exact answersShort_raise s _
    · exact answersShort_respond .ok (by decide)
  | regRd op =>
    rcases execRegRd_cases h with ⟨-, rfl⟩ | ⟨j, -, -, rfl⟩
    · exact ⟨.badLength, [], by decide, rfl⟩
    · exact answersShort_answerRegister s j
  | cntClr op =>
    rcases execCntClr_cases h with ⟨-, rfl⟩ | ⟨-, rfl⟩
    · exact answersShort_raise s _
    · exact ⟨.ok, [], by decide, rfl⟩
  | reset op =>
    rcases execReset_cases h with ⟨-, rfl⟩ | ⟨-, rfl⟩
    · exact answersShort_raise s _
    · exact ⟨.ok, [], by decide, rfl⟩

/-- Settles O10: every result is shorter than 2^32 bytes, and `rlen` is the length itself there. -/
theorem responseLengthFieldIsTrue : Obligations.ResponseLengthFieldIsTrue := by
  intro i s t hinv hmax h
  obtain ⟨st, r, hr, hrsp⟩ := exec_answersShort (hinv.bufBound.trans (rxbufMax_le s)) hmax h
  refine ⟨st.code, r, hr, ?_⟩
  rw [hrsp, responsePacket, rlen_of_lt hr]

end Sys2Proof.Machine
end

section
/-! Command packets (30_encoding.md rules R66 to R71, R84 to R86): which opcode names which command, what the parser finds at the
head of the bytes that have arrived, and that parser and encoder are inverse to each other. -/

namespace Sys2Proof.Machine

/-! ### Byte order -/

/-- A length that fits the field is read back from it (R51). -/
theorem toNat_be32_ofNat {n : Nat} (h : n < 2 ^ 32) :
    (be32 ((BitVec.ofNat 32 n).extractLsb' 24 8) ((BitVec.ofNat 32 n).extractLsb' 16 8)
      ((BitVec.ofNat 32 n).extractLsb' 8 8) ((BitVec.ofNat 32 n).extractLsb' 0 8)).toNat = n := by
  rw [be32_u32be, BitVec.toNat_ofNat, Nat.mod_eq_of_lt h]

/-- Four bytes are the field of the number they stand for (R51). -/
theorem u32be_be32 (b3 b2 b1 b0 : Byte) : u32be (be32 b3 b2 b1 b0) = [b3, b2, b1, b0] := by
  have h3 : (be32 b3 b2 b1 b0).extractLsb' 24 8 = b3 := by
    rw [be32, BitVec.extractLsb'_append_eq_of_le (by omega), BitVec.extractLsb'_append_eq_of_le (by omega)]
    exact BitVec.extractLsb'_append_eq_left
  have h2 : (be32 b3 b2 b1 b0).extractLsb' 16 8 = b2 := by
    rw [be32, BitVec.extractLsb'_append_eq_of_le (by omega), BitVec.extractLsb'_append_eq_of_le (by omega)]
    exact BitVec.extractLsb'_append_eq_right
  have h1 : (be32 b3 b2 b1 b0).extractLsb' 8 8 = b1 := by
    rw [be32, BitVec.extractLsb'_append_eq_of_le (by omega)]
    exact BitVec.extractLsb'_append_eq_right
  have h0 : (be32 b3 b2 b1 b0).extractLsb' 0 8 = b0 := BitVec.extractLsb'_append_eq_right
  rw [u32be, h3, h2, h1, h0]

/-! ### Opcodes -/

/-- The opcode map is the table of R70, read in either direction. -/
theorem decodeOpcode_eq_some_iff {opc : Byte} {op : Bytes} {i : Instr} :
    decodeOpcode opc op = some i ↔ i.opcode = opc ∧ i.operand = op := by
  constructor
  · intro h
    unfold decodeOpcode at h
    split at h
    case h_22 => cases h
    all_goals
      cases h
      exact ⟨BitVec.eq_of_toNat_eq (Eq.symm ‹_›), rfl⟩
  · rintro ⟨rfl, rfl⟩
    cases i <;> rfl

/-- The opcodes that name no command are those R71 lists. -/
theorem decodeOpcode_eq_none_iff {opc : Byte} {op : Bytes} : decodeOpcode opc op = none ↔ listedIllegal opc := by
  have hopc := opc.isLt
  unfold decodeOpcode listedIllegal
  split
  case h_22 =>
    simp only [imp_false] at *
    simp only [true_iff]
    omega
  all_goals simp only [reduceCtorEq, false_iff]; omega

/-- Settles O3. -/
theorem opcodesAreTheTable : Obligations.OpcodesAreTheTable := by
  intro opc op
  cases h : decodeOpcode opc op with
  | none => exact .inl ⟨decodeOpcode_eq_none_iff.1 h, rfl⟩
  | some i =>
    refine .inr ⟨fun hill => ?_, i, rfl, decodeOpcode_eq_some_iff.1 h⟩
    rw [decodeOpcode_eq_none_iff.2 hill] at h
    cases h

/-! ### The parser -/

/-- The packet with opcode `opc` and operand `op` (R66). -/
def commandPacket (opc : Byte) (op : Bytes) : Bytes := opc :: u32be (BitVec.ofNat 32 op.length) ++ op

/-- What the parser makes of a whole packet (R67, R71). -/
def readPacket (opc : Byte) (op : Bytes) : Decoded :=
  match decodeOpcode opc op with
  | some i => .command i (5 + op.length)
  | none => .illegalOpcode opc (5 + op.length)

theorem encode_eq_commandPacket (i : Instr) : encode i = commandPacket i.opcode i.operand := rfl

@[simp] theorem commandPacket_length (opc : Byte) (op : Bytes) : (commandPacket opc op).length = 5 + op.length := by
  simp only [commandPacket, List.cons_append, List.length_cons, List.length_append, u32be_length]
  omega

theorem readPacket_eq_command_iff {opc : Byte} {op : Bytes} {i : Instr} {n : Nat} :
    readPacket opc op = .command i n ↔ (i.opcode = opc ∧ i.operand = op) ∧ n = 5 + op.length := by
  rw [← decodeOpcode_eq_some_iff]
  unfold readPacket
  cases decodeOpcode opc op with
  | none => simp
  | some j => simp only [Decoded.command.injEq, Option.some.injEq, eq_comm (a := n)]

/-- A whole packet is read, whatever follows it. -/
theorem decode_commandPacket_append {op : Bytes} (hop : op.length < 2 ^ 32) (opc : Byte) (rest : Bytes) :
    decode (commandPacket opc op ++ rest) = readPacket opc op := by
  cases hcommand : decodeOpcode opc op <;>
    simp [commandPacket, u32be, decode, toNat_be32_ofNat hop, readPacket, hcommand]

theorem announcedLen_commandPacket_append {op : Bytes} (hop : op.length < 2 ^ 32) (opc : Byte) (rest : Bytes) :
    announcedLen (commandPacket opc op ++ rest) = op.length :=
  toNat_be32_ofNat hop

/-- Everything the parser can find: too few bytes, or a whole packet at the head of them (R67). -/
theorem decode_cases (bs : Bytes) :
    decode bs = .incomplete ∨
    ∃ opc op rest, op.length < 2 ^ 32 ∧ bs = commandPacket opc op ++ rest ∧ decode bs = readPacket opc op := by
  match bs with
  | opc :: l3 :: l2 :: l1 :: l0 :: rest =>
    by_cases hlen : rest.length < (be32 l3 l2 l1 l0).toNat
    · exact .inl (if_pos hlen)
    · have htake : (rest.take (be32 l3 l2 l1 l0).toNat).length = (be32 l3 l2 l1 l0).toNat := by
        rw [List.length_take]
        omega
      have hop : (rest.take (be32 l3 l2 l1 l0).toNat).length < 2 ^ 32 := htake.trans_lt (be32 l3 l2 l1 l0).isLt
      have hbs : opc :: l3 :: l2 :: l1 :: l0 :: rest
          = commandPacket opc (rest.take (be32 l3 l2 l1 l0).toNat) ++ rest.drop (be32 l3 l2 l1 l0).toNat := by
        simp [commandPacket, htake, u32be_be32]
      exact .inr ⟨_, _, _, hop, hbs, hbs ▸ decode_commandPacket_append hop opc _⟩
  | [] | [_] | [_, _] | [_, _, _] | [_, _, _, _] => exact .inl rfl

/-- Settles O1: the encoder writes the packet of the command's opcode, which names that command. -/
theorem decodeInvertsEncode : Obligations.DecodeInvertsEncode := by
  intro i rest hwf
  rw [encode_eq_commandPacket, decode_commandPacket_append hwf]
  exact readPacket_eq_command_iff.2 ⟨⟨rfl, rfl⟩, rfl⟩

/-- Settles O2: by `decode_cases` the bytes begin with a packet, whose opcode and operand are the command's. -/
theorem encodeInvertsDecode : Obligations.EncodeInvertsDecode := by
  intro bs i n h
  rcases decode_cases bs with hinc | ⟨opc, op, rest, hop, rfl, hread⟩
  · rw [hinc] at h
    cases h
  · rw [hread] at h
    obtain ⟨⟨rfl, rfl⟩, rfl⟩ := readPacket_eq_command_iff.1 h
    refine ⟨hop, rfl, ?_, ?_⟩
    · simp
    · rw [encode_eq_commandPacket, List.take_left' (commandPacket_length _ _)]

/-- Settles O4: four of the packets are the encoder's, and the fifth has an opcode that R71 lists. -/
theorem specPacketsDecode : Obligations.SpecPacketsDecode :=
  ⟨decodeInvertsEncode (.fcFrame [0x00#8, 0x01#8, 0xC0#8, 0xDB#8, 0x02#8]) [] (by decide),
   decodeInvertsEncode (.regRd [0x15#8]) [] (by decide),
   decodeInvertsEncode (.dsDescs [0x01#8, 0xF0#8, 0x12#8]) [] (by decide),
   decodeInvertsEncode (.reset []) [] (by decide),
   decode_commandPacket_append (op := []) (by decide) 0x00#8 []⟩

/-! ### Steps -/

variable {s t : State}

/-- The parser finds too few bytes where the spec says that the packet has not arrived. -/
theorem fetch_of_short (h : s.pending.length < 5 ∨ s.pending.length < 5 + announcedLen s.pending) :
    s.fetch = .incomplete := by
  rcases decode_cases s.pending with hinc | ⟨opc, op, rest, hop, hbs, -⟩
  · exact hinc
  · rw [hbs, announcedLen_commandPacket_append hop, List.length_append, commandPacket_length] at h
    omega

theorem step_of_incomplete (h : s.fetch = .incomplete) : step s = .next s := by
  simp only [step, h]

/-- Settles O7. -/
theorem incompletePacketWaits : Obligations.IncompletePacketWaits :=
  fun _ h => step_of_incomplete (fetch_of_short h)

/-- A packet the parser has read is at least its opcode and its length field, and all of it has arrived (R66, R67). -/
theorem fetch_size_bounds {n : Nat}
    (h : (∃ i, s.fetch = .command i n) ∨ ∃ opc, s.fetch = .illegalOpcode opc n) : 5 ≤ n ∧ n ≤ s.pending.length := by
  refine ⟨?_, decode_size_le h⟩
  rcases decode_cases s.pending with hinc | ⟨opc, op, -, -, -, hread⟩
  · simp [State.fetch, hinc] at h
  · simp only [State.fetch, hread, readPacket] at h
    split at h <;> simp at h <;> omega

/-- An answer to a packet of `n` bytes, as the ports see it. -/
theorem Answers.response_of_advance {quiet : Bool} {n : Nat} (h : Answers quiet (s.advance n) t) :
    t.cmdPos = s.cmdPos + n ∧ ∃ sts result, t.rspStream = s.rspStream ++ packet sts result ∧ sts ∈ assignedCodes ∧
      (sts.getLsbD 7 = true → result = []) := by
  obtain ⟨-, -, hpos, st, r, hrsp, hr, -⟩ := h
  exact ⟨hpos, st.code, r, hrsp, st.code_mem_assignedCodes, hr⟩

/-- Settles O9: a command's packet and an illegal one are each answered once, by `exec_answers` and `illegalOpcode_answers`. -/
theorem everyPacketIsAnsweredOnce : Obligations.EveryPacketIsAnsweredOnce := by
  intro s t h
  rcases step_cases h with ⟨i, n, hfetch, hexec⟩ | ⟨opc, n, hfetch, rfl⟩ | ⟨hfetch, rfl⟩
  · obtain ⟨hlo, hhi⟩ := fetch_size_bounds (.inl ⟨i, hfetch⟩)
    obtain ⟨hpos, sts, r, hr⟩ := (exec_answers hexec).response_of_advance
    exact .inr ⟨n, sts, r, hlo, hhi, hpos, hr⟩
  · obtain ⟨hlo, hhi⟩ := fetch_size_bounds (.inr ⟨opc, hfetch⟩)
    obtain ⟨hpos, sts, r, hr⟩ := (illegalOpcode_answers (s.advance n)).response_of_advance
    exact .inr ⟨n, sts, r, hlo, hhi, hpos, hr⟩
  · exact .inl ⟨hfetch, rfl⟩

end Sys2Proof.Machine
end

section
/-! When a command's `LEN` is legal and what it answers where it is not (30_encoding.md rules R70, R81), and the whole next state
of three commands (R74, R76, 40_framecodec.md rule R96, 42_descrambler.md rules R128, R129). -/

namespace Sys2Proof.Machine

variable {s t : State} {i : Instr}

/-! ### The endings, in the terms of the statements -/

theorem raise_badLength (s : State) : s.raise .badLength = commandError s 0x81#8 := rfl
theorem raise_badOperand (s : State) : s.raise .badOperand = commandError s 0x82#8 := rfl
theorem respond_ok (s : State) (r : Bytes) : s.respond .ok r = answer s 0x00#8 r := rfl

/-! ### Illegal lengths -/

/-- The block has added one response, whose status is not BAD_LENGTH. -/
def AnswersOtherwise (s t : State) : Prop :=
  ∃ sts result, sts ≠ 0x81#8 ∧ t.rspStream = s.rspStream ++ packet sts result

/-- How a command ends as its length decides: BAD_LENGTH, which REG.RD alone answers without a change of state (R34), exactly where
the length is illegal. -/
inductive EndsByLength (s : State) : Instr → State → Prop
  | refused {i : Instr} : ¬legalLen s.cfg.val i → isRegRd i = false → EndsByLength s i (s.raise .badLength)
  | refusedQuietly {op : Bytes} : ¬legalLen s.cfg.val (.regRd op) →
      EndsByLength s (.regRd op) (s.answerQuietly .badLength [])
  | accepted {i : Instr} {t : State} : legalLen s.cfg.val i → AnswersOtherwise s t → EndsByLength s i t

theorem not_legalLen_of_maxOperand_lt {c : Config} (h : c.maxOperand < i.operand.length) : ¬legalLen c i :=
  fun hlegal => Nat.not_le.2 h hlegal.1

theorem answersOtherwise_raise (s : State) {st : Status} (h : st.code ≠ 0x81#8) : AnswersOtherwise s (s.raise st) :=
  ⟨st.code, [], h, rfl⟩

/-- A result is returned, after whatever change of the deframer and the counters. -/
theorem answersOtherwise_respond_ok {u : State} (hu : u.rspStream = s.rspStream) (r : Bytes) :
    AnswersOtherwise s (u.respond .ok r) :=
  ⟨0x00#8, r, by decide, hu ▸ rfl⟩

theorem answersOtherwise_finishRx (s : State) (m : Nat) (b : Byte) :
    AnswersOtherwise s (s.finishRx (deframerStep m s.rx b)) := by
  refine ⟨_, _, ?_, State.finishRx_rspStream s _⟩
  rcases deframerStep_status m s.rx b with ⟨h, -⟩ | ⟨-, h⟩
  · rw [h]; decide
  · simp only [List.mem_cons, List.not_mem_nil, or_false] at h
    rcases h with h | h | h | h <;> rw [h] <;> decide

theorem answersOtherwise_finishDecode (s : State) (r : Bytes) (n : Nat) : AnswersOtherwise s (s.finishDecode r n) := by
  rcases finishDecode_cases s r n with ⟨-, h⟩ | ⟨w, d, -, h⟩ <;> rw [h]
  · exact answersOtherwise_raise s (by decide)
  · exact answersOtherwise_respond_ok rfl _

/-- The reasons for a drop are about the body's length, not the operand's (R189, R226). -/
theorem answersOtherwise_finishFrame (s : State) (c : Config) (body : Bytes) (off : Nat) :
    AnswersOtherwise s (s.finishFrame (decodeFrame c body off)) := by
  rcases finishFrame_cases s (decodeFrame c body off) with ⟨reason, hdrop, h⟩ | ⟨r, -, -, h⟩ | ⟨r, -, -, h⟩ <;> rw [h]
  · rcases decodeFrame_cases c body off with ⟨-, hd⟩ | ⟨-, hd⟩ | ⟨-, -, hd⟩ <;> rw [hd] at hdrop <;> cases hdrop
    · exact answersOtherwise_raise _ (by decide)
    · exact answersOtherwise_raise _ (by decide)
  · exact answersOtherwise_respond_ok rfl _
  · exact answersOtherwise_respond_ok rfl _

theorem answersOtherwise_answerRegister (s : State) (j : Byte) : AnswersOtherwise s (s.answerRegister j) := by
  rcases answerRegister_cases s j with ⟨v, -, h⟩ | ⟨-, h⟩ <;> rw [h]
  · exact ⟨0x00#8, u32be v, by decide, rfl⟩
  · exact ⟨0x82#8, [], by decide, rfl⟩

/-- The length check of every command is the column "legal LEN" of R70. -/
theorem exec_endsByLength (h : exec i s = .next t) : EndsByLength s i t := by
  cases i with
  | fcEsc op =>
    rcases execFcEsc_cases h with ⟨hlen, rfl⟩ | ⟨hlen, rfl⟩
    · exact .refused (not_legalLen_of_maxOperand_lt hlen) rfl
    · exact .accepted ⟨hlen, trivial⟩ (answersOtherwise_respond_ok rfl _)
  | fcUnesc op =>
    rcases execFcUnesc_cases h with ⟨hlen, rfl⟩ | ⟨hlen, ⟨st, hu, rfl⟩ | ⟨r, -, rfl⟩⟩
    · exact .refused (not_legalLen_of_maxOperand_lt hlen) rfl
    · refine .accepted ⟨hlen, trivial⟩ (answersOtherwise_raise s ?_)
      rcases unescape_error hu with rfl | rfl <;> decide
    · exact .accepted ⟨hlen, trivial⟩ (answersOtherwise_respond_ok rfl _)
  | fcFrame op =>
    rcases execFcFrame_cases h with ⟨hlen | rfl, rfl⟩ | ⟨a, d, rfl, hlen, ⟨-, rfl⟩ | ⟨-, rfl⟩⟩
    · exact .refused (not_legalLen_of_maxOperand_lt hlen) rfl
    · exact .refused (fun hlegal => absurd hlegal.2 (by decide)) rfl
    · exact .accepted ⟨hlen, Nat.le_add_left _ _⟩ (answersOtherwise_raise s (by decide))
    · exact .accepted ⟨hlen, Nat.le_add_left _ _⟩ (answersOtherwise_respond_ok rfl _)
  | fcRx op =>
    rcases execFcRx_cases h with ⟨hlen | hlen, rfl⟩ | ⟨b, rfl, rfl⟩
    · exact .refused (not_legalLen_of_maxOperand_lt hlen) rfl
    · exact .refused (fun hlegal => hlen hlegal.2) rfl
    · exact .accepted ⟨one_le_maxOperand s, rfl⟩ (answersOtherwise_finishRx s _ b)
  | fcRxrst op =>
    rcases execFcRxrst_cases h with ⟨hne, rfl⟩ | ⟨rfl, rfl⟩
    · exact .refused (fun hlegal => hne (List.length_eq_zero_iff.1 hlegal.2)) rfl
    · exact .accepted ⟨Nat.zero_le _, rfl⟩ (answersOtherwise_respond_ok rfl _)
  | dlFind op =>
    rcases execDlFind_cases h with ⟨hlen, rfl⟩ | ⟨hlen, rfl⟩
    · exact .refused (not_legalLen_of_maxOperand_lt hlen) rfl
    · exact .accepted ⟨hlen, trivial⟩ (answersOtherwise_respond_ok rfl _)
  | dsDesc op =>
    rcases execDsDesc_cases h with ⟨hlen, rfl⟩ | ⟨hlen, rfl⟩
    · exact .refused (not_legalLen_of_maxOperand_lt hlen) rfl
    · exact .accepted ⟨hlen, trivial⟩ (answersOtherwise_respond_ok rfl _)
  | dsDescs op =>
    rcases execDsDescs_cases h with ⟨hlen | hlen, rfl⟩ | ⟨b1, b0, blk, rfl, hlen, ⟨-, rfl⟩ | ⟨-, rfl⟩⟩
    · exact .refused (not_legalLen_of_maxOperand_lt hlen) rfl
    · exact .refused (fun hlegal => Nat.not_le.2 hlen hlegal.2) rfl
    · exact .accepted ⟨hlen, Nat.le_add_left _ _⟩ (answersOtherwise_raise s (by decide))
    · exact .accepted ⟨hlen, Nat.le_add_left _ _⟩ (answersOtherwise_respond_ok rfl _)
  | fecHchk op =>
    rcases execFecHchk_cases h with ⟨hlen | hlen, rfl⟩ | ⟨hmax, hlen, rfl⟩
    · exact .refused (not_legalLen_of_maxOperand_lt hlen) rfl
    · exact .refused (fun hlegal => hlen hlegal.2) rfl
    · exact .accepted ⟨hmax, hlen⟩ (answersOtherwise_respond_ok rfl _)
  | fecHdec op =>
    rcases execFecHdec_cases h with ⟨hlen | hlen, rfl⟩ | ⟨hmax, hlen, rfl⟩
    · exact .refused (not_legalLen_of_maxOperand_lt hlen) rfl
    · exact .refused (fun hlegal => hlen hlegal.2) rfl
    · exact .accepted ⟨hmax, hlen⟩ (answersOtherwise_finishDecode s op 2)
  | fecPchk op =>
    rcases execFecPchk_cases h with ⟨hlen | hlen | hlen, rfl⟩ | ⟨hmax, hlo, hhi, rfl⟩
    · exact .refused (not_legalLen_of_maxOperand_lt hlen) rfl
    · exact .refused (fun ⟨_, hlo, _⟩ => Nat.not_le.2 hlen hlo) rfl
    · exact .refused (fun ⟨_, _, hhi⟩ => Nat.not_le.2 hlen hhi) rfl
    · exact .accepted ⟨hmax, hlo, hhi⟩ (answersOtherwise_respond_ok rfl _)
  | fecPdec op =>
    rcases execFecPdec_cases h with ⟨hlen | hlen | hlen, rfl⟩ | ⟨hmax, hlo, hhi, rfl⟩
    · exact .refused (not_legalLen_of_maxOperand_lt hlen) rfl
    · exact .refused (fun ⟨_, hlo, _⟩ => Nat.not_le.2 hlen hlo) rfl
    · exact .refused (fun ⟨_, _, hhi⟩ => Nat.not_le.2 hlen hhi) rfl
    · exact .accepted ⟨hmax, hlo, hhi⟩ (answersOtherwise_finishDecode s op 16)
  | crRec op =>
    rcases execCrRec_cases h with ⟨hlen | hlen, rfl⟩ | ⟨hmax, hlen, rfl⟩
    · exact .refused (not_legalLen_of_maxOperand_lt hlen) rfl
    · exact .refused (fun hlegal => hlen hlegal.2) rfl
    · exact .accepted ⟨hmax, hlen⟩ (answersOtherwise_respond_ok rfl _)
  | crcCalc op =>
    rcases execCrcCalc_cases h with ⟨hlen, rfl⟩ | ⟨hlen, rfl⟩
    · exact .refused (not_legalLen_of_maxOperand_lt hlen) rfl
    · exact .accepted ⟨hlen, trivial⟩ (answersOtherwise_respond_ok rfl _)
  | crcRef op =>
    rcases execCrcRef_cases h with ⟨hlen, rfl⟩ | ⟨hlen, rfl⟩
    · exact .refused (not_legalLen_of_maxOperand_lt hlen) rfl
    · exact .accepted ⟨hlen, trivial⟩ (answersOtherwise_respond_ok rfl _)
  | paFrame op =>
    rcases execPaFrame_cases h with ⟨hlen, rfl⟩ | ⟨hlen, rfl⟩
    · exact .refused (not_legalLen_of_maxOperand_lt hlen) rfl
    · exact .accepted ⟨hlen, trivial⟩ (answersOtherwise_finishFrame s _ op 0)
  | paCapt op =>
    rcases execPaCapt_cases h with ⟨hlen, rfl⟩ | ⟨hlen, rfl⟩
    · exact .refused (not_legalLen_of_maxOperand_lt hlen) rfl
    · exact .accepted ⟨hlen, trivial⟩ (answersOtherwise_respond_ok rfl _)
  | nop op =>
    rcases execNop_cases h with ⟨hne, rfl⟩ | ⟨rfl, rfl⟩
    · exact .refused (fun hlegal => hne (List.length_eq_zero_iff.1 hlegal.2)) rfl
    · exact .accepted ⟨Nat.zero_le _, rfl⟩ (answersOtherwise_respond_ok rfl _)
  | regRd op =>
    rcases execRegRd_cases h with ⟨hlen | hlen, rfl⟩ | ⟨j, rfl, hmax, rfl⟩
    · exact .refusedQuietly (not_legalLen_of_maxOperand_lt hlen)
    · exact .refusedQuietly fun hlegal => hlen hlegal.2
    · exact .accepted ⟨hmax, rfl⟩ (answersOtherwise_answerRegister s j)
  | cntClr op =>
    rcases execCntClr_cases h with ⟨hne, rfl⟩ | ⟨rfl, rfl⟩
    · exact .refused (fun hlegal => hne (List.length_eq_zero_iff.1 hlegal.2)) rfl
    · exact .accepted ⟨Nat.zero_le _, rfl⟩ (answersOtherwise_respond_ok rfl _)
  | reset op =>
    rcases execReset_cases h with ⟨hne, rfl⟩ | ⟨rfl, rfl⟩
    · exact .refused (fun hlegal => hne (List.length_eq_zero_iff.1 hlegal.2)) rfl
    · exact .accepted ⟨Nat.zero_le _, rfl⟩ (answersOtherwise_respond_ok rfl _)

/-- Settles O23: the endings of `exec_endsByLength`, and every command has one. -/
theorem illegalLengthIsBadLength : Obligations.IllegalLengthIsBadLength := by
  refine ⟨fun i s hlen hrd => ?_, fun op s hlen => ?_, fun i s t hlen h => ?_⟩
  · obtain ⟨t, h⟩ := exec_total i s
    cases exec_endsByLength h with
    | refused => rw [h, raise_badLength]
    | refusedQuietly => cases hrd
    | accepted hlegal => exact absurd hlegal hlen
  · obtain ⟨t, h⟩ := exec_total (.regRd op) s
    cases exec_endsByLength h with
    | refused _ hrd => cases hrd
    | refusedQuietly => exact h
    | accepted hlegal => exact absurd hlegal hlen
  · cases exec_endsByLength h with
    | refused hillegal => exact absurd hlen hillegal
    | refusedQuietly hillegal => exact absurd hlen hillegal
    | accepted _ hother => exact hother

/-! ### FC.FRAME -/

theorem exec_fcFrame_cons (a : Byte) {d : Bytes} (hlen : d.length + 1 ≤ s.cfg.val.maxOperand) :
    exec (.fcFrame (a :: d)) s
      = .next (if a = fend then s.raise .badOperand else s.respond .ok (frameBytes a d)) := by
  obtain ⟨t, ht⟩ := exec_total (.fcFrame (a :: d)) s
  rcases execFcFrame_cases ht with ⟨hlt | hnil, -⟩ | ⟨a', d', hop, -, ⟨ha, rfl⟩ | ⟨ha, rfl⟩⟩
  · exact absurd hlen (Nat.not_le.2 hlt)
  · cases hnil
  · cases hop
    rw [ht, if_pos ha]
  · cases hop
    rw [ht, if_neg ha]

/-- Settles O29: the two branches of the address check. -/
theorem frameCompletes : Obligations.FrameCompletes := by
  refine fun s a d hlen => ⟨fun ha => ?_, fun ha => ?_⟩
  · rw [exec_fcFrame_cons a hlen, if_neg (show a ≠ fend from ha)]
    rfl
  · rw [exec_fcFrame_cons a hlen, if_pos (show a = fend from ha), raise_badOperand]

/-! ### DS.DESC and DS.DESCS -/

theorem exec_dsDesc_of_le {op : Bytes} (hlen : op.length ≤ s.cfg.val.maxOperand) :
    exec (.dsDesc op) s = .next (s.respond .ok (descramble op dsInit)) := by
  obtain ⟨t, ht⟩ := exec_total (.dsDesc op) s
  rcases execDsDesc_cases ht with ⟨hlt, -⟩ | ⟨-, rfl⟩
  · exact absurd hlen (Nat.not_le.2 hlt)
  · exact ht

/-- Bit 9 and the bits above it are those of the first byte but its lowest (R76). -/
theorem be16_le_0x1FF_iff (b1 b0 : Byte) : be16 b1 b0 ≤ 0x1FF#16 ↔ b1 ≤ 0x01#8 := by
  have h0 := b0.isLt
  have hnat : (be16 b1 b0).toNat = b1.toNat * 256 + b0.toNat := by
    rw [be16, BitVec.toNat_append, ← Nat.shiftLeft_add_eq_or_of_lt h0, Nat.shiftLeft_eq]
  simp only [BitVec.le_def, hnat, BitVec.toNat_ofNat]
  omega

theorem be16_setWidth_nine (b1 b0 : Byte) : (be16 b1 b0).setWidth 9 = b1.setWidth 1 ++ b0 := by
  rw [be16, BitVec.setWidth_append, dif_neg (by decide)]
  rfl

theorem exec_dsDescs_cons (b1 b0 : Byte) {blk : Bytes} (hlen : blk.length + 2 ≤ s.cfg.val.maxOperand) :
    exec (.dsDescs (b1 :: b0 :: blk)) s
      = .next (if be16 b1 b0 ≤ 0x1FF#16 then s.respond .ok (descramble blk ((be16 b1 b0).setWidth 9))
          else s.raise .badOperand) := by
  obtain ⟨t, ht⟩ := exec_total (.dsDescs (b1 :: b0 :: blk)) s
  rcases execDsDescs_cases ht with ⟨hlt | hlt, -⟩ | ⟨b1', b0', blk', hop, -, ⟨hwide, rfl⟩ | ⟨hnarrow, rfl⟩⟩
  · exact absurd hlen (Nat.not_le.2 hlt)
  · exact absurd (Nat.le_add_left 2 blk.length) (Nat.not_le.2 hlt)
  · cases hop
    rw [ht, if_neg (BitVec.not_le.2 hwide)]
  · cases hop
    rw [ht, if_pos hnarrow]

/-- Settles O37: DS.DESCS reads its state from the first two bytes, and `be16_le_0x1FF_iff` says when it fits nine bits. -/
theorem descrambleCompletes : Obligations.DescrambleCompletes := by
  refine ⟨fun s op hlen => ⟨exec_dsDesc_of_le hlen, descramble_length op _⟩,
    fun s b1 b0 blk hlen => ⟨fun hb => ?_, fun hb => ?_⟩⟩
  · rw [exec_dsDescs_cons b1 b0 hlen, if_pos ((be16_le_0x1FF_iff b1 b0).2 hb), be16_setWidth_nine, respond_ok]
  · rw [exec_dsDescs_cons b1 b0 hlen, if_neg (by rwa [be16_le_0x1FF_iff, BitVec.not_le]), raise_badOperand]

end Sys2Proof.Machine
end

section
/-! ESCAPE and UNESCAPE, and the two commands that apply them (40_framecodec.md rules R92 to R95, R105, R106). -/

namespace Sys2Proof.Machine

variable {s : State} {op : Bytes}

/-! ### ESCAPE -/

theorem escape_cons (b : Byte) (d : Bytes) : escape (b :: d) = escapeByte b ++ escape d := List.flatMap_cons

/-- The three lines of R92. -/
theorem escapeByte_cases (b : Byte) :
    (b = fend ∧ escapeByte b = [fesc, tfend]) ∨ (b = fesc ∧ escapeByte b = [fesc, tfesc]) ∨
    (b ≠ fend ∧ b ≠ fesc ∧ escapeByte b = [b]) := by
  unfold escapeByte
  split
  · exact .inl ⟨by assumption, rfl⟩
  · split
    · exact .inr (.inl ⟨by assumption, rfl⟩)
    · exact .inr (.inr ⟨by assumption, by assumption, rfl⟩)

theorem escapeByte_length (b : Byte) : (escapeByte b).length = 1 + [b].count fend + [b].count fesc := by
  rcases escapeByte_cases b with ⟨rfl, h⟩ | ⟨rfl, h⟩ | ⟨hend, hesc, h⟩ <;> rw [h]
  · rfl
  · rfl
  · simp [hend, hesc]

/-- ESCAPE adds one byte for every byte that it replaces (R82). -/
theorem escape_length (d : Bytes) : (escape d).length = d.length + d.count fend + d.count fesc := by
  induction d with
  | nil => rfl
  | cons b d ih =>
    have hcount (x : Byte) : (b :: d).count x = [b].count x + d.count x := List.count_append (l₁ := [b])
    rw [escape_cons, List.length_append, escapeByte_length, ih, List.length_cons, hcount, hcount]
    omega

theorem fend_notMem_escapeByte (b : Byte) : fend ∉ escapeByte b := by
  rcases escapeByte_cases b with ⟨-, h⟩ | ⟨-, h⟩ | ⟨hend, -, h⟩ <;> rw [h]
  · decide
  · decide
  · exact fun hmem => hend (List.mem_singleton.1 hmem).symm

theorem fend_notMem_escape (d : Bytes) : fend ∉ escape d := by
  intro hmem
  obtain ⟨b, -, hb⟩ := List.mem_flatMap.1 hmem
  exact fend_notMem_escapeByte b hb

/-- An escape byte of the output is the first byte of the pair that replaces one input byte. -/
theorem escape_fesc_paired {d : Bytes} {k : Nat} (hk : (escape d)[k]? = some fesc) :
    (escape d)[k + 1]? = some tfend ∨ (escape d)[k + 1]? = some tfesc := by
  induction d generalizing k with
  | nil => cases hk
  | cons b d ih =>
    rw [escape_cons] at hk ⊢
    rcases escapeByte_cases b with ⟨-, h⟩ | ⟨-, h⟩ | ⟨-, hesc, h⟩ <;> rw [h] at hk ⊢
    · match k with
      | 0 => exact .inl rfl
      | 1 => cases hk
      | k + 2 => exact ih hk
    · match k with
      | 0 => exact .inr rfl
      | 1 => cases hk
      | k + 2 => exact ih hk
    · match k with
      | 0 => exact absurd (Option.some.inj hk) hesc
      | k + 1 => exact ih hk

/-- Settles O28. -/
theorem escapeIsMinimal : Obligations.EscapeIsMinimal :=
  fun d => ⟨fend_notMem_escape d, fun _ => escape_fesc_paired⟩

/-! ### UNESCAPE, by what stands first -/

theorem unescape_fesc_tfend (rest : Bytes) :
    unescape (fesc :: tfend :: rest) = (unescape rest).map (fend :: ·) := by
  rw [unescape, if_pos rfl, if_pos rfl]

theorem unescape_fesc_tfesc (rest : Bytes) :
    unescape (fesc :: tfesc :: rest) = (unescape rest).map (fesc :: ·) := by
  rw [unescape, if_pos rfl, if_neg (by decide), if_pos rfl]

theorem unescape_fesc_other {x : Byte} (hend : x ≠ tfend) (hesc : x ≠ tfesc) (rest : Bytes) :
    unescape (fesc :: x :: rest) = .error .invalidEscape := by
  rw [unescape, if_pos rfl, if_neg hend, if_neg hesc]

theorem unescape_fesc_last : unescape [fesc] = .error .incompleteEscape := rfl

theorem unescape_cons_of_ne {b : Byte} (hb : b ≠ fesc) (d : Bytes) :
    unescape (b :: d) = (unescape d).map (b :: ·) := by
  cases d with
  | nil => simp [unescape, hb, Except.map]
  | cons c d => rw [unescape, if_neg hb]

/-- What one byte was escaped to is read back as that byte, and UNESCAPE goes on behind it. -/
theorem unescape_escapeByte_append (b : Byte) (rest : Bytes) :
    unescape (escapeByte b ++ rest) = (unescape rest).map (b :: ·) := by
  rcases escapeByte_cases b with ⟨rfl, h⟩ | ⟨rfl, h⟩ | ⟨-, hesc, h⟩ <;> rw [h]
  · exact unescape_fesc_tfend rest
  · exact unescape_fesc_tfesc rest
  · exact unescape_cons_of_ne hesc rest

theorem unescape_escape (d : Bytes) : unescape (escape d) = .ok d := by
  induction d with
  | nil => rfl
  | cons b d ih => rw [escape_cons, unescape_escapeByte_append, ih]; rfl

/-- Settles O27. -/
theorem unescapeInvertsEscape : Obligations.UnescapeInvertsEscape := unescape_escape

/-! ### UNESCAPE behind well-formed bytes -/

theorem exceptMap_cons_append (b : Byte) (r : Bytes) (p : Except Status Bytes) :
    (p.map (r ++ ·)).map (b :: ·) = p.map (b :: r ++ ·) := by
  cases p <;> rfl

/-- Well-formed bytes end at the end of an escape, so what follows is read on its own. -/
theorem unescape_append {pre r : Bytes} (h : unescape pre = .ok r) (rest : Bytes) :
    unescape (pre ++ rest) = (unescape rest).map (r ++ ·) := by
  induction pre using unescape.induct generalizing r with
  | case1 =>
    cases h
    rw [List.nil_append]
    cases unescape rest <;> rfl
  | case2 => rw [unescape_fesc_last] at h; cases h
  | case3 b hb =>
    rw [unescape_cons_of_ne hb] at h
    cases h
    exact unescape_cons_of_ne hb rest
  | case4 tail ih =>
    rw [unescape_fesc_tfend] at h
    obtain ⟨r', hr', rfl⟩ := exceptMap_cons_eq_ok h
    rw [List.cons_append, List.cons_append, unescape_fesc_tfend, ih hr', exceptMap_cons_append]
  | case5 tail _ ih =>
    rw [unescape_fesc_tfesc] at h
    obtain ⟨r', hr', rfl⟩ := exceptMap_cons_eq_ok h
    rw [List.cons_append, List.cons_append, unescape_fesc_tfesc, ih hr', exceptMap_cons_append]
  | case6 c tail hend hesc => rw [unescape_fesc_other hend hesc] at h; cases h
  | case7 b c tail hb ih =>
    rw [unescape_cons_of_ne hb] at h
    obtain ⟨r', hr', rfl⟩ := exceptMap_cons_eq_ok h
    rw [List.cons_append, unescape_cons_of_ne hb, ih hr', exceptMap_cons_append]

theorem unescape_of_fesc_notMem {d : Bytes} (h : fesc ∉ d) : unescape d = .ok d := by
  induction d with
  | nil => rfl
  | cons b d ih =>
    obtain ⟨hb, hd⟩ := not_or.1 (mt List.mem_cons.2 h)
    rw [unescape_cons_of_ne (Ne.symm hb), ih hd]
    rfl

/-- Settles O26: behind well-formed bytes, each error is the one that the rest has on its own. -/
theorem unescapeReportsTheFirstError : Obligations.UnescapeReportsTheFirstError := by
  refine ⟨fun pre r rest h => unescape_append h rest, fun pre r h => ?_, fun pre r rest x h hend hesc => ?_,
    fun d => unescape_of_fesc_notMem⟩
  · exact unescape_append h [fesc]
  · have hrest : unescape (0xDB#8 :: x :: rest) = .error .invalidEscape := unescape_fesc_other hend hesc rest
    rw [unescape_append h, hrest]
    rfl

/-! ### FC.ESC and FC.UNESC -/

/-- A command of format OB goes on with its operand wherever the length is legal (R73). -/
theorem withOperand_operandOB_of_le (hlen : op.length ≤ s.cfg.val.maxOperand) (k : Bytes → State) :
    withOperand s (operandOB s.cfg.val op) k = .next (k op) := by
  have hop : operandOB s.cfg.val op = .ok op := checkLen_map_eq_ok_iff.2 ⟨⟨hlen, Nat.zero_le _, hlen⟩, rfl⟩
  rw [hop, withOperand_ok]

theorem exec_fcEsc_of_le (hlen : op.length ≤ s.cfg.val.maxOperand) :
    exec (.fcEsc op) s = .next (answer s 0x00#8 (escape op)) :=
  withOperand_operandOB_of_le hlen fun d => s.respond .ok (escape d)

/-- Settles O24. -/
theorem escCompletes : Obligations.EscCompletes :=
  ⟨rfl, escape_cons, fun _ op hlen => ⟨exec_fcEsc_of_le hlen, escape_length op⟩⟩

theorem exec_fcUnesc_of_ok {r : Bytes} (hlen : op.length ≤ s.cfg.val.maxOperand) (hop : unescape op = .ok r) :
    exec (.fcUnesc op) s = .next (answer s 0x00#8 r) := by
  rw [exec, execFcUnesc, withOperand_operandOB_of_le hlen, hop]
  rfl

theorem exec_fcUnesc_of_error {st : Status} (hlen : op.length ≤ s.cfg.val.maxOperand) (hop : unescape op = .error st) :
    exec (.fcUnesc op) s = .next (s.raise st) := by
  rw [exec, execFcUnesc, withOperand_operandOB_of_le hlen, hop]

/-- An error that is no command error changes `LAST_STS` alone (R230). -/
theorem raise_of_not_commandError {st : Status} (h : st.isCommandError = false) (s : State) :
    s.raise st = answer s st.code [] := by
  rw [State.raise, if_neg (by simp [h])]
  rfl

/-- Settles O25: the command follows UNESCAPE, whose outcomes `unescape_error` bounds. -/
theorem unescCompletes : Obligations.UnescCompletes := by
  refine fun s => ⟨fun op r hlen hop => ⟨exec_fcUnesc_of_ok hlen hop, unescape_length_le hop⟩,
    fun op hlen hop => ?_, fun op hlen hop => ?_, fun op => ?_,
    fun d hlen => exec_fcUnesc_of_ok hlen (unescape_escape d)⟩
  · rw [exec_fcUnesc_of_error hlen hop, raise_of_not_commandError rfl]
    rfl
  · rw [exec_fcUnesc_of_error hlen hop, raise_of_not_commandError rfl]
    rfl
  · rcases hop : unescape op with st | r
    · exact .inr ((unescape_error hop).imp (congrArg _) (congrArg _))
    · exact .inl ⟨r, rfl⟩

end Sys2Proof.Machine
end

section
/-! What FC.RX does with each byte, the plain commands, and the frame that FC.FRAME builds on its way through the deframer
(40_framecodec.md rules R96 to R104, R107; 46_system.md rules R216, R218). -/

namespace Sys2Proof.Machine

variable {s t u : State}

/-! ### How FC.RX ends, by the class of its status -/

theorem finishRx_ok (s : State) (r : Bytes) (rx : Deframer) :
    s.finishRx { status := .ok, result := r, rx := rx } = answer { s with rx := rx } 0x00#8 r := rfl

theorem finishRx_okFrame (s : State) (r : Bytes) (rx : Deframer) :
    s.finishRx { status := .okFrame, result := r, rx := rx } =
      answer { s with rx := rx, cnt := { s.cnt with rxFrames := s.cnt.rxFrames + 1#32 } } 0x01#8 r := rfl

theorem Counters.countRx_of_isRxError (c : Counters) {st : Status} (h : st.isRxError = true) :
    c.countRx st = { c with rxErrors := c.rxErrors + 1#32 } := by
  have hne : st ≠ .okFrame := by
    rintro rfl
    cases h
  rw [Counters.countRx, if_neg hne, if_pos h]

theorem finishRx_error (s : State) {st : Status} (h : st.isRxError = true) (rx : Deframer) :
    s.finishRx { status := st, result := [], rx := rx } =
      answer { s with rx := rx, cnt := { s.cnt with rxErrors := s.cnt.rxErrors + 1#32 } } st.code [] := by
  rw [State.finishRx, Counters.countRx_of_isRxError _ h]
  rfl

/-! ### One byte outside a frame -/

theorem rxHunt_eq (rx : Deframer) (b : Byte) :
    rxHunt rx b = { status := .ok, result := [], rx := if b = fend then { rx with state := .addr } else rx } := by
  unfold rxHunt
  split <;> rfl

theorem rxAddr_eq (rx : Deframer) (b : Byte) :
    rxAddr rx b =
      { status := .ok, result := [], rx := if b = fend then rx else { state := .data, addr := b, buf := [] } } := by
  unfold rxAddr
  split <;> rfl

/-- Settles O30. -/
theorem deframerOutsideAFrame : Obligations.DeframerOutsideAFrame := by
  refine ⟨fun s b hstate => ?_, fun s b hstate => ?_⟩
  · rw [exec_fcRx_singleton, deframerStep_of_hunt _ b hstate, rxHunt_eq, finishRx_ok]
    rfl
  · rw [exec_fcRx_singleton, deframerStep_of_addr _ b hstate, rxAddr_eq, finishRx_ok]
    rfl

/-! ### One byte inside a frame -/

/-- In DATA an escape byte is remembered in the mode alone (R100). -/
theorem rxData_fesc (m : Nat) (rx : Deframer) :
    rxData m rx fesc = { status := .ok, result := [], rx := { rx with state := .esc } } := rfl

/-- In ESC a byte that neither ends an escape nor opens a frame discards the frame (R101). -/
theorem rxEsc_other (m : Nat) (rx : Deframer) {b : Byte} (hb : b ≠ fend) (hend : b ≠ tfend) (hesc : b ≠ tfesc) :
    rxEsc m rx b = { status := .invalidEscape, result := [], rx := { rx with state := .hunt, buf := [] } } := by
  rw [rxEsc, if_neg hend, if_neg hesc, if_neg hb]

/-- The three ways a payload byte `v` arrives: as it is, or as the second byte of an escape (R100, R101). -/
theorem deframerStep_payload (m : Nat) {rx : Deframer} {b v : Byte}
    (h : (rx.state = .data ∧ b ≠ fend ∧ b ≠ fesc ∧ v = b) ∨ (rx.state = .esc ∧ b = tfend ∧ v = fend) ∨
      (rx.state = .esc ∧ b = tfesc ∧ v = fesc)) :
    deframerStep m rx b = rxAppend m rx v := by
  rcases h with ⟨hstate, hend, hesc, rfl⟩ | ⟨hstate, rfl, rfl⟩ | ⟨hstate, rfl, rfl⟩
  · rw [deframerStep_of_data _ _ hstate, rxData, if_neg hend, if_neg hesc]
  · rw [deframerStep_of_esc _ _ hstate, rxEsc, if_pos rfl]
  · rw [deframerStep_of_esc _ _ hstate, rxEsc, if_neg (by decide), if_pos rfl]

theorem rxAppend_of_lt {m : Nat} {rx : Deframer} (h : rx.buf.length < m) (v : Byte) :
    rxAppend m rx v = { status := .ok, result := [], rx := { rx with state := .data, buf := rx.buf ++ [v] } } := if_pos h

theorem rxAppend_of_le {m : Nat} {rx : Deframer} (h : m ≤ rx.buf.length) (v : Byte) :
    rxAppend m rx v = { status := .rxOverflow, result := [], rx := { rx with state := .hunt, buf := [] } } :=
  if_neg (Nat.not_lt.2 h)

/-- Settles O31: the sentinel and the escapes by mode, and every payload byte by `deframerStep_payload`. -/
theorem deframerInsideAFrame : Obligations.DeframerInsideAFrame := by
  refine ⟨fun s b hstate => ⟨?_, ?_⟩, fun s b hstate => ⟨?_, fun hb hend hesc => ?_⟩,
    fun s b v hv => ⟨fun hroom => ?_, fun hfull => ?_⟩⟩
  · rintro rfl
    rw [exec_fcRx_singleton, deframerStep_of_data _ _ hstate, rxData_sentinel, finishRx_okFrame]
  · rintro (rfl : b = fesc)
    rw [exec_fcRx_singleton, deframerStep_of_data _ _ hstate, rxData_fesc, finishRx_ok]
  · rintro rfl
    rw [exec_fcRx_singleton, deframerStep_of_esc _ _ hstate, rxEsc_sentinel, finishRx_error s rfl]
    rfl
  · rw [exec_fcRx_singleton, deframerStep_of_esc _ _ hstate, rxEsc_other _ _ hb hend hesc, finishRx_error s rfl]
    rfl
  · rw [exec_fcRx_singleton, deframerStep_payload _ hv, rxAppend_of_lt hroom, finishRx_ok]
  · rw [exec_fcRx_singleton, deframerStep_payload _ hv, rxAppend_of_le hfull, finishRx_error s rfl]
    rfl

/-! ### FC.RXRST, NOP and CNT.CLR -/

/-- A command of format O0 goes on wherever its operand is empty (R72). -/
theorem withOperand_operandO0_nil (s : State) (k : Unit → State) :
    withOperand s (operandO0 s.cfg.val []) k = .next (k ()) := by
  have hop : operandO0 s.cfg.val [] = .ok () := checkLen_eq_ok_iff.2 ⟨Nat.zero_le _, le_rfl, le_rfl⟩
  rw [hop, withOperand_ok]

/-- Settles O59: the three commands have format O0, and each goes on to what its rule names. -/
theorem plainCommandsComplete : Obligations.PlainCommandsComplete :=
  ⟨fun s => withOperand_operandO0_nil s fun _ =>
      ({ s with rx := { s.rx with state := .hunt, buf := [] } } : State).respond .ok [],
    fun s => withOperand_operandO0_nil s fun _ => s.respond .ok [],
    fun s => withOperand_operandO0_nil s fun _ => ({ s with cnt := Counters.zero } : State).respond .ok []⟩

/-! ### Bytes fed one after another -/

theorem feed_cons (b : Byte) (bs : Bytes) (s : State) :
    feed (b :: bs) s = feed bs (s.finishRx (deframerStep s.cfg.val.rxbufMax s.rx b)) := by
  rw [feed, exec_fcRx_singleton]

theorem feed_append_of_next {xs : Bytes} (h : feed xs s = .next u) (ys : Bytes) : feed (xs ++ ys) s = feed ys u := by
  induction xs generalizing s with
  | nil => cases h; rfl
  | cons b xs ih =>
    rw [feed_cons] at h
    rw [List.cons_append, feed_cons, ih h]

/-- The bytes `bs` lead from `s` to `u`, each of them answered by an OK response without a result. -/
structure FedQuietly (bs : Bytes) (s u : State) : Prop where
  feeds : feed bs s = .next u
  cfg : u.cfg = s.cfg
  responses : u.rspStream = s.rspStream ++ (List.replicate bs.length (packet 0x00#8 [])).flatten

theorem fedQuietly_nil (s : State) : FedQuietly [] s s := ⟨rfl, rfl, (List.append_nil _).symm⟩

theorem FedQuietly.append {xs ys : Bytes} (hx : FedQuietly xs s u) (hy : FedQuietly ys u t) :
    FedQuietly (xs ++ ys) s t where
  feeds := by rw [feed_append_of_next hx.feeds, hy.feeds]
  cfg := hy.cfg.trans hx.cfg
  responses := by
    rw [hy.responses, hx.responses, List.length_append, List.replicate_add, List.flatten_append, List.append_assoc]

theorem fedQuietly_singleton {b : Byte} {rx : Deframer}
    (h : deframerStep s.cfg.val.rxbufMax s.rx b = { status := .ok, result := [], rx := rx }) :
    FedQuietly [b] s (answer { s with rx := rx } 0x00#8 []) where
  feeds := by rw [feed_cons, h, finishRx_ok]; rfl
  cfg := rfl
  responses := by simp [answer]

/-! ### A frame through the deframer -/

/-- The sentinel and the address open a frame, whatever was in the buffer before. -/
theorem exists_fedQuietly_opening {a : Byte} (ha : a ≠ fend) (hstate : s.rx.state = .hunt ∨ s.rx.state = .addr) :
    ∃ u, FedQuietly [fend, a] s u ∧ u.rx = { state := .data, addr := a, buf := [] } := by
  have hfend : deframerStep s.cfg.val.rxbufMax s.rx fend =
      { status := .ok, result := [], rx := { s.rx with state := .addr } } := by
    rcases hstate with hstate | hstate
    · rw [deframerStep_of_hunt _ _ hstate, rxHunt_eq, if_pos rfl]
    · rw [deframerStep_of_addr _ _ hstate, rxAddr_eq, if_pos rfl, ← hstate]
  have haddr (m : Nat) : deframerStep m { s.rx with state := .addr } a =
      { status := .ok, result := [], rx := { state := .data, addr := a, buf := [] } } := by
    rw [deframerStep_of_addr _ _ rfl, rxAddr_eq, if_neg ha]
  exact ⟨_, (fedQuietly_singleton hfend).append (fedQuietly_singleton (haddr _)), rfl⟩

/-- Inside a frame the bytes that one byte was escaped to put that byte into the buffer. -/
theorem exists_fedQuietly_escapeByte (b : Byte) (hstate : s.rx.state = .data)
    (hroom : s.rx.buf.length < s.cfg.val.rxbufMax) :
    ∃ u, FedQuietly (escapeByte b) s u ∧ u.rx = { s.rx with state := .data, buf := s.rx.buf ++ [b] } := by
  have hfesc : deframerStep s.cfg.val.rxbufMax s.rx fesc =
      { status := .ok, result := [], rx := { s.rx with state := .esc } } := by
    rw [deframerStep_of_data _ _ hstate, rxData_fesc]
  rcases escapeByte_cases b with ⟨hb, h⟩ | ⟨hb, h⟩ | ⟨hend, hesc, h⟩ <;> rw [h]
  · have htfend : deframerStep s.cfg.val.rxbufMax { s.rx with state := .esc } tfend = _ :=
      (deframerStep_payload _ (.inr (.inl ⟨rfl, rfl, hb⟩))).trans (rxAppend_of_lt hroom b)
    exact ⟨_, (fedQuietly_singleton hfesc).append (fedQuietly_singleton htfend), rfl⟩
  · have htfesc : deframerStep s.cfg.val.rxbufMax { s.rx with state := .esc } tfesc = _ :=
      (deframerStep_payload _ (.inr (.inr ⟨rfl, rfl, hb⟩))).trans (rxAppend_of_lt hroom b)
    exact ⟨_, (fedQuietly_singleton hfesc).append (fedQuietly_singleton htfesc), rfl⟩
  · have hplain := (deframerStep_payload _ (.inl ⟨hstate, hend, hesc, rfl⟩)).trans (rxAppend_of_lt hroom b)
    exact ⟨_, fedQuietly_singleton hplain, rfl⟩

/-- Inside a frame an escaped payload for which there is room puts the payload into the buffer. -/
theorem exists_fedQuietly_escape (d : Bytes) (hstate : s.rx.state = .data)
    (hroom : s.rx.buf.length + d.length ≤ s.cfg.val.rxbufMax) :
    ∃ u, FedQuietly (escape d) s u ∧ u.rx = { s.rx with state := .data, buf := s.rx.buf ++ d } := by
  induction d generalizing s with
  | nil => exact ⟨s, fedQuietly_nil s, by rw [List.append_nil, ← hstate]⟩
  | cons b d ih =>
    rw [List.length_cons] at hroom
    obtain ⟨u, hu, hurx⟩ := exists_fedQuietly_escapeByte b hstate (by omega)
    have huroom : u.rx.buf.length + d.length ≤ u.cfg.val.rxbufMax := by
      rw [hurx, hu.cfg, List.length_append, List.length_singleton]
      omega
    obtain ⟨t, ht, htrx⟩ := ih (by rw [hurx]) huroom
    refine ⟨t, escape_cons b d ▸ hu.append ht, ?_⟩
    rw [htrx, hurx, List.append_assoc, List.singleton_append]

/-- Settles O32: all bytes of the frame but the last are taken quietly and put the payload into the buffer; the last one is a
sentinel in DATA and delivers it. -/
theorem frameRoundTripsThroughTheDeframer : Obligations.FrameRoundTripsThroughTheDeframer := by
  intro s a d ha hroom hlen hstate
  have hframe : exec (.fcFrame (a :: d)) s = .next (answer s 0x00#8 (frameBytes a d)) := by
    rw [exec_fcFrame_cons a hlen, if_neg (show a ≠ fend from ha), respond_ok]
  obtain ⟨v, hv, hvrx⟩ := exists_fedQuietly_opening ha hstate
  obtain ⟨u, hu, hurx⟩ := exists_fedQuietly_escape (s := v) d (by rw [hvrx])
    (by rw [hvrx, hv.cfg, List.length_nil, Nat.zero_add]; exact hroom)
  rw [hvrx] at hurx
  have hquiet : FedQuietly ([fend, a] ++ escape d) s u := hv.append hu
  have hlast : deframerStep u.cfg.val.rxbufMax u.rx fend =
      { status := .okFrame, result := a :: d, rx := { state := .addr, addr := a, buf := [] } } := by
    rw [hurx, deframerStep_of_data _ _ rfl]
    exact rxData_sentinel _ _
  have hdelivered : feed (frameBytes a d) s =
      .next (u.finishRx { status := .okFrame, result := a :: d, rx := { state := .addr, addr := a, buf := [] } }) := by
    rw [frameBytes, feed_append_of_next hquiet.feeds, feed_cons, hlast]
    rfl
  refine ⟨frameBytes a d, u, _, hframe, ?_, ?_, hdelivered, rfl, rfl, rfl⟩
  · rw [frameBytes, List.dropLast_concat]
    exact hquiet.feeds
  · rw [hquiet.responses, frameBytes, List.length_append (bs := [fend]), List.length_singleton, Nat.add_sub_cancel]

end Sys2Proof.Machine
end

section
/-! The searches for the marker: FIND, LOCATE and DL.FIND, and what the offsets they give say about the buffer (41_delimiter.md rules
R117 to R122, 30_encoding.md rule R90). -/

namespace Sys2Proof.Machine

variable {s : State} {buf op : Bytes} {start i : Nat}

/-! ### One search at an offset of a buffer -/

/-- The matches at or after `start`, at their offsets in `buf`: FIND gives the first of them, LOCATE gives those at or after 0. -/
def markersAtOrAfter (buf : Bytes) (start : Nat) : List Nat := markersFrom start (buf.drop start)

theorem findMarker_eq_head? (buf : Bytes) (start : Nat) : findMarker buf start = (markersAtOrAfter buf start).head? := rfl

theorem markerOffsets_eq (buf : Bytes) : markerOffsets buf = markersAtOrAfter buf 0 := rfl

theorem slice_eq_marker_iff : slice i (i + 4) buf = marker ↔ marker <+: buf.drop i := by
  rw [slice, List.drop_take, Nat.add_sub_cancel_left, List.prefix_iff_eq_take, eq_comm]
  rfl

/-- A match lies wholly inside the buffer (R117). -/
theorem add_four_le_length_of_slice_eq_marker (h : slice i (i + 4) buf = marker) : i + 4 ≤ buf.length := by
  have hlen : min (i + 4) buf.length - i = 4 := by rw [← slice_length, h]; rfl
  omega

theorem markersAtOrAfter_of_match (h : slice start (start + 4) buf = marker) :
    markersAtOrAfter buf start = start :: markersAtOrAfter buf (start + 1) := by
  have hlt : start < buf.length := by have := add_four_le_length_of_slice_eq_marker h; omega
  rw [slice_eq_marker_iff, List.drop_eq_getElem_cons hlt, ← List.isPrefixOf_iff_prefix] at h
  rw [markersAtOrAfter, List.drop_eq_getElem_cons hlt]
  exact if_pos h

theorem markersAtOrAfter_of_not_match (hlt : start < buf.length) (h : slice start (start + 4) buf ≠ marker) :
    markersAtOrAfter buf start = markersAtOrAfter buf (start + 1) := by
  rw [Ne, slice_eq_marker_iff, List.drop_eq_getElem_cons hlt] at h
  rw [markersAtOrAfter, List.drop_eq_getElem_cons hlt]
  exact markersFrom_cons_of_not_prefix h

theorem markersAtOrAfter_of_length_le (h : buf.length ≤ start) : markersAtOrAfter buf start = [] := by
  rw [markersAtOrAfter, List.drop_eq_nil_of_le h]
  rfl

/-- `i` is the least match at or after `start` (R117). -/
structure IsLeastMatch (buf : Bytes) (start i : Nat) : Prop where
  start_le : start ≤ i
  isMatch : slice i (i + 4) buf = marker
  least : ∀ j, start ≤ j → j < i → slice j (j + 4) buf ≠ marker

/-- The only two things a search can do: find nothing, or find the least match and go on one byte after its start (R118, R119). -/
theorem markersAtOrAfter_cases (buf : Bytes) (start : Nat) :
    (markersAtOrAfter buf start = [] ∧ ∀ j, start ≤ j → slice j (j + 4) buf ≠ marker) ∨
    ∃ i, IsLeastMatch buf start i ∧ markersAtOrAfter buf start = i :: markersAtOrAfter buf (i + 1) := by
  by_cases hlt : start < buf.length
  · by_cases hmatch : slice start (start + 4) buf = marker
    · exact .inr ⟨start, ⟨le_rfl, hmatch, fun j hle hj => absurd hle (Nat.not_le.2 hj)⟩, markersAtOrAfter_of_match hmatch⟩
    · have hstart {j : Nat} (hle : start ≤ j) (hlater : start + 1 ≤ j → slice j (j + 4) buf ≠ marker) :
          slice j (j + 4) buf ≠ marker := by
        rcases hle.eq_or_lt with rfl | hj
        · exact hmatch
        · exact hlater hj
      rw [markersAtOrAfter_of_not_match hlt hmatch]
      rcases markersAtOrAfter_cases buf (start + 1) with ⟨hnil, hnone⟩ | ⟨i, ⟨hle, hi, hleast⟩, hcons⟩
      · exact .inl ⟨hnil, fun j hj => hstart hj (hnone j)⟩
      · exact .inr ⟨i, ⟨by omega, hi, fun j hj hji => hstart hj fun hj' => hleast j hj' hji⟩, hcons⟩
  · refine .inl ⟨markersAtOrAfter_of_length_le (Nat.not_lt.1 hlt), fun j hj hmatch => ?_⟩
    have := add_four_le_length_of_slice_eq_marker hmatch
    omega
termination_by buf.length - start

/-- Settles O33: FIND is the head of the search, which `markersAtOrAfter_cases` describes. -/
theorem findMarkerIsTheLeastMatch : Obligations.FindMarkerIsTheLeastMatch := by
  intro buf start
  rw [findMarker_eq_head?]
  rcases markersAtOrAfter_cases buf start with ⟨hnil, hnone⟩ | ⟨i, ⟨hle, hmatch, hleast⟩, hcons⟩
  · exact .inr ⟨by rw [hnil]; rfl, hnone⟩
  · exact .inl ⟨i, by rw [hcons]; rfl, hle, add_four_le_length_of_slice_eq_marker hmatch, hmatch, hleast⟩

/-! ### DL.FIND -/

/-- Each offset of a search is what FIND gives from one byte after the offset before it (R118). -/
theorem markersAtOrAfter_getElem?_succ (buf : Bytes) (start k : Nat) :
    (markersAtOrAfter buf start)[k + 1]? = (markersAtOrAfter buf start)[k]?.bind fun o => findMarker buf (o + 1) := by
  induction k generalizing start with
  | zero =>
    rcases markersAtOrAfter_cases buf start with ⟨hnil, -⟩ | ⟨i, -, hcons⟩
    · simp [hnil]
    · simp [hcons, findMarker_eq_head?, List.head?_eq_getElem?]
  | succ k ih =>
    rcases markersAtOrAfter_cases buf start with ⟨hnil, -⟩ | ⟨i, -, hcons⟩
    · simp [hnil]
    · simpa only [hcons, List.getElem?_cons_succ] using ih (i + 1)

/-- The offsets modulo 2^32, and −1 as `FF FF FF FF` (R90). -/
theorem locate_flatMap_u32be (buf : Bytes) :
    ((locate buf).flatMap fun v => u32be (BitVec.ofInt 32 v)) =
      (markerOffsets buf).flatMap (fun o => u32be (BitVec.ofNat 32 o)) ++ [0xFF#8, 0xFF#8, 0xFF#8, 0xFF#8] := by
  have hsentinel : u32be (BitVec.ofInt 32 (-1)) = [0xFF#8, 0xFF#8, 0xFF#8, 0xFF#8] := by decide
  simp only [locate, List.flatMap_append, List.flatMap_map, List.flatMap_singleton, hsentinel, Int.ofNat_eq_natCast,
    BitVec.ofInt_natCast]

theorem exec_dlFind_of_le (hlen : op.length ≤ s.cfg.val.maxOperand) :
    exec (.dlFind op) s = .next (answer s 0x00#8
      ((markerOffsets op).flatMap (fun o => u32be (BitVec.ofNat 32 o)) ++ [0xFF#8, 0xFF#8, 0xFF#8, 0xFF#8])) := by
  rw [exec, execDlFind, withOperand_operandOB_of_le hlen, locate_flatMap_u32be, respond_ok]

/-- Settles O34: the offsets are those of the search from 0. -/
theorem findCompletes : Obligations.FindCompletes := fun _ op hlen =>
  ⟨markerOffsets op, exec_dlFind_of_le hlen, List.head?_eq_getElem?.symm, markersAtOrAfter_getElem?_succ op 0⟩

/-! ### The boundary list and the frame extents -/

theorem RoomForMarkers.le_of_mem {hi lo : Nat} {os : List Nat} (h : RoomForMarkers hi lo os) : ∀ o ∈ os, lo ≤ o := by
  induction os generalizing lo with
  | nil => simp
  | cons o os ih =>
    obtain ⟨hlo, -, hrest⟩ := h
    exact List.forall_mem_cons.2 ⟨hlo, fun o' ho' => by have := ih hrest o' ho'; omega⟩

/-- Where there is room for a marker at every offset, each offset is at least 4 before all that follow. -/
theorem RoomForMarkers.pairwise {hi lo : Nat} {os : List Nat} (h : RoomForMarkers hi lo os) :
    os.Pairwise fun a b => a + 4 ≤ b := by
  induction os generalizing lo with
  | nil => exact .nil
  | cons o os ih =>
    obtain ⟨-, -, hrest⟩ := h
    exact .cons hrest.le_of_mem (ih hrest)

/-- Settles O35: two markers never overlap (R119), so there is room for one at every offset. -/
theorem boundaryListIsIncreasing : Obligations.BoundaryListIsIncreasing := fun buf =>
  ⟨markerOffsets buf, rfl, (markerOffsets_roomForMarkers buf).pairwise⟩

/-- A whole marker stands at every offset of a search. -/
theorem slice_eq_marker_of_mem (h : i ∈ markersAtOrAfter buf start) : slice i (i + 4) buf = marker := by
  induction hos : markersAtOrAfter buf start generalizing start with
  | nil => simp [hos] at h
  | cons o os ih =>
    rcases markersAtOrAfter_cases buf start with ⟨hnil, -⟩ | ⟨o', ⟨-, hmatch, -⟩, hcons⟩
    · simp [hnil] at hos
    · obtain ⟨rfl, hrest⟩ := List.cons.inj (hcons.symm.trans hos)
      rcases List.mem_cons.1 (hcons ▸ h) with rfl | hmem
      · exact hmatch
      · exact ih hmem hrest

/-- The frames start at the offsets, one frame at each (R121). -/
theorem map_fst_frameExtents (total : Nat) (os : List Nat) : (frameExtents total os).map Prod.fst = os := by
  induction os using frameExtents.induct with
  | case1 => rfl
  | case2 o => rfl
  | case3 o o' rest ih => rw [frameExtents, List.map_cons, ih]

/-- Settles O36: the extents have room for their markers, and each starts at an offset of the search. -/
theorem frameExtentsHoldAMarker : Obligations.FrameExtentsHoldAMarker := by
  intro buf oe hoe
  obtain ⟨hroom, hend⟩ := (markerOffsets_roomForMarkers buf).mem_frameExtents oe hoe
  have hstart : oe.1 ∈ markerOffsets buf := by
    simpa [map_fst_frameExtents] using List.mem_map_of_mem (f := Prod.fst) hoe
  exact ⟨hroom, hend, slice_eq_marker_of_mem hstart⟩

end Sys2Proof.Machine
end

section
/-! What the descrambler does to a bit stream: its closed form, its inverse and its fixed points (42_descrambler.md rules R127 and
R131 to R136). -/

namespace Sys2Proof.Machine

variable {bits : List Bool} {blk : Bytes} {s0 : BitVec 9} {k : Nat}

/-! ### Bit streams and bytes -/

@[simp] theorem byteBits_bitsByte (b7 b6 b5 b4 b3 b2 b1 b0 : Bool) :
    byteBits (bitsByte b7 b6 b5 b4 b3 b2 b1 b0) = [b7, b6, b5, b4, b3, b2, b1, b0] := by
  decide +revert

theorem packBits_byteBits_append (b : Byte) (bits : List Bool) : packBits (byteBits b ++ bits) = b :: packBits bits := by
  have hbyte : bitsByte (b.getLsbD 7) (b.getLsbD 6) (b.getLsbD 5) (b.getLsbD 4)
      (b.getLsbD 3) (b.getLsbD 2) (b.getLsbD 1) (b.getLsbD 0) = b := by
    decide +revert
  exact congrArg (· :: packBits bits) hbyte

@[simp] theorem unpackBits_nil : unpackBits [] = [] := rfl

@[simp] theorem unpackBits_cons (b : Byte) (blk : Bytes) : unpackBits (b :: blk) = byteBits b ++ unpackBits blk :=
  List.flatMap_cons

@[simp] theorem unpackBits_append (x y : Bytes) : unpackBits (x ++ y) = unpackBits x ++ unpackBits y := List.flatMap_append

/-- A block survives unpacking. -/
@[simp] theorem packBits_unpackBits (blk : Bytes) : packBits (unpackBits blk) = blk := by
  induction blk with
  | nil => rfl
  | cons b blk ih => rw [unpackBits_cons, packBits_byteBits_append, ih]

theorem unpackBits_injective : Function.Injective unpackBits := Function.LeftInverse.injective packBits_unpackBits

/-- A stream of whole bytes survives packing. -/
theorem unpackBits_packBits (h : 8 ∣ bits.length) : unpackBits (packBits bits) = bits := by
  induction bits using packBits.induct with
  | case1 b7 b6 b5 b4 b3 b2 b1 b0 rest ih =>
    have hrest : 8 ∣ rest.length := by simp only [List.length_cons] at h; omega
    simp [packBits, ih hrest]
  | case2 bits hshort =>
    have hnil : packBits bits = [] := packBits.eq_2 bits hshort
    have hlen : bits.length / 8 = 0 := by rw [← packBits_length, hnil, List.length_nil]
    rw [hnil, List.length_eq_zero_iff.1 (by omega : bits.length = 0), unpackBits_nil]

@[simp] theorem unpackBits_descramble (blk : Bytes) (s0 : BitVec 9) :
    unpackBits (descramble blk s0) = descrambleBits s0 (unpackBits blk) :=
  unpackBits_packBits (by simp)

@[simp] theorem scrambleBits_length (s0 : BitVec 9) (bits : List Bool) : (scrambleBits s0 bits).length = bits.length := by
  induction bits generalizing s0 with
  | nil => rfl
  | cons p bits ih => simp [scrambleBits, ih]

@[simp] theorem unpackBits_scramble (blk : Bytes) (s0 : BitVec 9) :
    unpackBits (scramble blk s0) = scrambleBits s0 (unpackBits blk) :=
  unpackBits_packBits (by simp)

/-- SCRAMBLE keeps the length (R134). -/
@[simp] theorem scramble_length (blk : Bytes) (s0 : BitVec 9) : (scramble blk s0).length = blk.length := by
  simp [scramble]

@[simp] theorem flipBit_length (blk : Bytes) (k : Nat) : (flipBit blk k).length = blk.length := by
  simp [flipBit]

@[simp] theorem unpackBits_flipBit (blk : Bytes) (k : Nat) :
    unpackBits (flipBit blk k) = (unpackBits blk).set k (!streamBit blk k) :=
  unpackBits_packBits (by simp)

/-! ### The inverse -/

theorem descrambleBits_scrambleBits (s0 : BitVec 9) (bits : List Bool) :
    descrambleBits s0 (scrambleBits s0 bits) = bits := by
  induction bits generalizing s0 with
  | nil => rfl
  | cons p bits ih => simp [scrambleBits, descrambleBits, ih]

/-- The bit sent again is the bit received, so both run through the same states. -/
theorem scrambleBits_descrambleBits (s0 : BitVec 9) (bits : List Bool) :
    scrambleBits s0 (descrambleBits s0 bits) = bits := by
  induction bits generalizing s0 with
  | nil => rfl
  | cons b bits ih => simp [scrambleBits, descrambleBits, ih]

/-- Settles O40: the two recurrences are inverse on bit streams, and unpacking loses nothing. -/
theorem scrambleAndDescrambleInvert : Obligations.ScrambleAndDescrambleInvert := fun blk s0 =>
  ⟨unpackBits_injective (by simp [descrambleBits_scrambleBits]), unpackBits_injective (by simp [scrambleBits_descrambleBits]),
    descramble_length blk s0, scramble_length blk s0⟩

/-! ### The closed form -/

/-- Input bit `k - d`, false before the stream begins: a tap of the filter (R132). -/
def delayedBit (d : Nat) (bits : List Bool) (k : Nat) : Bool := if d ≤ k then bits.getD (k - d) false else false

/-- The first bit of a stream is at the tap `d + 1` after `d` further steps, and only then. -/
theorem delayedBit_cons_succ (d : Nat) (b : Bool) (bits : List Bool) (k : Nat) :
    delayedBit (d + 1) (b :: bits) (k + 1) = (delayedBit (d + 1) bits k ^^ (decide (k = d) && b)) := by
  unfold delayedBit
  rcases Nat.lt_trichotomy k d with hlt | rfl | hgt
  · simp [show ¬ d ≤ k by omega, show ¬ d + 1 ≤ k by omega, hlt.ne]
  · simp
  · obtain ⟨i, rfl⟩ := Nat.exists_eq_add_of_lt hgt
    have hlate : d + i + 1 - d = i + 1 := by omega
    simp [hlate, show d ≤ d + i + 1 by omega, show d + i + 1 ≠ d by omega]

/-- One bit, moved to place `d` of a state. -/
theorem getLsbD_ofBool_shiftLeft {d : Nat} (hd : d < 9) (b : Bool) (k : Nat) :
    ((BitVec.ofBool b).setWidth 9 <<< d).getLsbD k = (decide (k = d) && b) := by
  rcases Nat.lt_trichotomy k d with hlt | rfl | hgt
  · simp [hlt, hlt.ne]
  · simp [hd]
  · simp [hgt.ne', BitVec.getLsbD_ofBool, show k - d ≠ 0 by omega]

/-- A received bit enters the state at bit 8 and at bit 3, and moves down one place a step (R127, R132). -/
theorem getLsbD_scramblerNext (s : BitVec 9) (b : Bool) (k : Nat) :
    (scramblerNext s b).getLsbD k = (s.getLsbD (k + 1) ^^ (decide (k = 8) && b) ^^ (decide (k = 3) && b)) := by
  have hor : (s.getLsbD (k + 1) || (decide (k = 8) && b)) = (s.getLsbD (k + 1) ^^ (decide (k = 8) && b)) := by
    by_cases h8 : k = 8 <;> simp [h8]
  rw [scramblerNext, BitVec.getLsbD_xor, BitVec.getLsbD_or, BitVec.getLsbD_ushiftRight, Nat.add_comm 1 k,
    getLsbD_ofBool_shiftLeft (by decide), getLsbD_ofBool_shiftLeft (by decide), hor, Bool.xor_assoc]

/-- R132 on bit streams; a state has no bit beyond bit 8. -/
theorem descrambleBits_getD (h : k < bits.length) :
    (descrambleBits s0 bits).getD k false =
      (bits.getD k false ^^ delayedBit 4 bits k ^^ delayedBit 9 bits k ^^ s0.getLsbD k) := by
  induction bits generalizing s0 k with
  | nil => simp at h
  | cons b bits ih =>
    cases k with
    | zero => simp [descrambleBits, delayedBit]
    | succ k =>
      rw [descrambleBits, List.getD_cons_succ, List.getD_cons_succ, ih (Nat.lt_of_succ_lt_succ h), getLsbD_scramblerNext,
        delayedBit_cons_succ 3, delayedBit_cons_succ 8]
      simp only [Nat.reduceAdd, Bool.xor_comm, Bool.xor_left_comm, Bool.xor_assoc]

/-- R132 on blocks, the three taps and the state apart. -/
theorem streamBit_descramble (h : k < 8 * blk.length) :
    streamBit (descramble blk s0) k =
      (streamBit blk k ^^ delayedBit 4 (unpackBits blk) k ^^ delayedBit 9 (unpackBits blk) k ^^ s0.getLsbD k) := by
  rw [streamBit, unpackBits_descramble, descrambleBits_getD (by simpa using h), streamBit]

theorem streamBit_of_le (h : 8 * blk.length ≤ k) : streamBit blk k = false :=
  List.getD_eq_default _ _ (by simpa using h)

/-- Settles O38: from bit 9 on the state has no bit to give, before it the last tap has none. -/
theorem descramblerClosedForm : Obligations.DescramblerClosedForm := by
  intro blk s0 k hk
  rw [streamBit_descramble hk]
  by_cases h9 : 9 ≤ k
  · simp [delayedBit, h9, streamBit]
  · simp [delayedBit, h9, streamBit]

/-! ### Self-synchronisation -/

/-- A flipped input bit flips the tap `d` once, `d` steps later. -/
theorem delayedBit_set_not (d : Nat) {bits : List Bool} {k : Nat} (h : k < bits.length) (j : Nat) :
    delayedBit d (bits.set k (!bits.getD k false)) j = (delayedBit d bits j ^^ decide (j = k + d)) := by
  unfold delayedBit
  by_cases hd : d ≤ j
  · by_cases hjk : j = k + d
    · subst hjk
      simp [h]
    · simp [List.getElem?_set_ne (show k ≠ j - d by omega), hjk]
  · simp [hd, show j ≠ k + d by omega]

/-- From bit 9 on no bit of the initial state is left (R133). -/
theorem streamBit_descramble_of_nine_le (blk : Bytes) (s0 s1 : BitVec 9) (h : 9 ≤ k) :
    streamBit (descramble blk s0) k = streamBit (descramble blk s1) k := by
  rcases Nat.lt_or_ge k (8 * blk.length) with hk | hk
  · rw [streamBit_descramble hk, streamBit_descramble hk, BitVec.getLsbD_of_ge s0 k h, BitVec.getLsbD_of_ge s1 k h]
  · rw [streamBit_of_le (by simpa using hk), streamBit_of_le (by simpa using hk)]

theorem streamBit_descramble_flip_state (s0 : BitVec 9) (h9 : k < 9) (hk : k < 8 * blk.length) :
    streamBit (descramble blk (s0 ^^^ (1#9 <<< k))) k = !streamBit (descramble blk s0) k := by
  have hflip : (s0 ^^^ (1#9 <<< k)).getLsbD k = !s0.getLsbD k := by simp [h9]
  rw [streamBit_descramble hk, streamBit_descramble hk, hflip]
  simp only [Bool.xor_not]

theorem streamBit_flipBit (hk : k < 8 * blk.length) (j : Nat) :
    streamBit (flipBit blk k) j = (streamBit blk j ^^ decide (j = k)) := by
  have hflip := delayedBit_set_not 0 (bits := unpackBits blk) (by simpa using hk) j
  simpa only [delayedBit, Nat.zero_le, if_true, Nat.sub_zero, Nat.add_zero, streamBit, unpackBits_flipBit] using hflip

/-- A flipped received bit is seen at the three taps and nowhere else (R133). -/
theorem streamBit_descramble_flipBit (s0 : BitVec 9) {j : Nat} (hk : k < 8 * blk.length) (hj : j < 8 * blk.length) :
    streamBit (descramble (flipBit blk k) s0) j =
      (streamBit (descramble blk s0) j ^^ decide (j = k ∨ j = k + 4 ∨ j = k + 9)) := by
  have htap : ∀ d, delayedBit d (unpackBits (flipBit blk k)) j = (delayedBit d (unpackBits blk) j ^^ decide (j = k + d)) :=
    fun d => by rw [unpackBits_flipBit, streamBit, delayedBit_set_not d (by simpa using hk)]
  -- at most one of the three taps holds the flipped bit
  have hone : decide (j = k ∨ j = k + 4 ∨ j = k + 9) = (decide (j = k) ^^ decide (j = k + 4) ^^ decide (j = k + 9)) := by
    grind
  rw [streamBit_descramble (by simpa using hj), streamBit_descramble hj, streamBit_flipBit hk, htap, htap, hone]
  simp only [Bool.xor_comm, Bool.xor_left_comm, Bool.xor_assoc]

/-- Settles O39: each clause reads the closed form at one bit. -/
theorem descramblerSelfSynchronises : Obligations.DescramblerSelfSynchronises :=
  ⟨fun blk s0 s1 _ h => streamBit_descramble_of_nine_le blk s0 s1 h,
    fun _ s0 _ h9 hk => streamBit_descramble_flip_state s0 h9 hk,
    fun _ s0 _ _ hk hj => streamBit_descramble_flipBit s0 hk hj⟩

/-! ### Fixed points -/

theorem descrambleBits_append (s0 : BitVec 9) (x y : List Bool) :
    descrambleBits s0 (x ++ y) = descrambleBits s0 x ++ descrambleBits (scramblerFinal s0 x) y := by
  induction x generalizing s0 with
  | nil => rfl
  | cons b x ih => simp [descrambleBits, scramblerFinal, ih]

theorem descramble_append (x y : Bytes) (s0 : BitVec 9) :
    descramble (x ++ y) s0 = descramble x s0 ++ descramble y (scramblerFinal s0 (unpackBits x)) :=
  unpackBits_injective (by simp [descrambleBits_append])

/-- A byte that keeps the state and comes out as it went in does so however often it is repeated. -/
theorem descramble_replicate {b : Byte} (hout : descramble [b] s0 = [b]) (hstate : scramblerFinal s0 (unpackBits [b]) = s0)
    (n : Nat) : descramble (List.replicate n b) s0 = List.replicate n b := by
  induction n with
  | zero => rfl
  | succ n ih => rw [List.replicate_succ, ← List.singleton_append, descramble_append, hout, hstate, ih]

/-- From 0x1F0 the high nibble of a byte stays, and its complement is added to the low nibble (R132 for one byte). -/
theorem descramble_singleton (b : Byte) : descramble [b] 0x1F0#9 = [b ^^^ (~~~b >>> 4)] :=
  unpackBits_injective (by
    simp [descrambleBits, byteBits, getLsbD_scramblerNext, -BitVec.getLsbD_eq_getElem])

/-- Settles O41: 0xFF keeps the state 0x1F0 and 0x00 the state 0, so both may be repeated, and a byte is a fixed point where the
complement of its high nibble is 0. -/
theorem descramblerFixedPoints : Obligations.DescramblerFixedPoints := by
  have hones : scramblerFinal 0x1F0#9 (unpackBits [0xFF#8]) = 0x1F0#9 := by decide
  have hzeros : scramblerFinal 0x000#9 (unpackBits [0x00#8]) = 0x000#9 := by decide
  refine ⟨descramble_singleton _, hones, descramble_replicate (descramble_singleton _) hones, descramble_singleton _,
    descramble_replicate (by decide) hzeros, fun b => ?_⟩
  calc descramble [b] 0x1F0#9 = [b]
    _ ↔ b ^^^ (~~~b >>> 4) = b := by rw [descramble_singleton, List.singleton_inj]
    _ ↔ ~~~b >>> 4 = 0#8 := xor_left_eq_self_iff
    _ ↔ 0xF0#8 ≤ b := by bv_omega

end Sys2Proof.Machine
end

section
/-! The arithmetic of the bytes: `GF_MUL` is bilinear and commutes with the multiplication by `x`, which makes it a commutative
product; the bytes are a field, and the powers of a primitive element are all its nonzero elements (43_blockfec.md rules R141 to
R143, R164). -/

namespace Sys2Proof.Machine

/-! ### Multiplication by `x` -/

theorem gfXtime_eq_xor (a : Byte) : gfXtime a = a <<< 1 ^^^ if a.getLsbD 7 then 0x1D#8 else 0#8 := by
  unfold gfXtime
  split <;> simp

/-- A choice by the sum of two bits is the sum of the choices. -/
theorem ite_xor (p q : Bool) (a : Byte) :
    (if (p ^^ q) = true then a else 0#8) = (if p = true then a else 0#8) ^^^ (if q = true then a else 0#8) := by
  cases p <;> cases q <;> simp

@[simp] theorem gfXtime_zero : gfXtime 0#8 = 0#8 := rfl

@[simp] theorem gfXtime_xor (a b : Byte) : gfXtime (a ^^^ b) = gfXtime a ^^^ gfXtime b := by
  have hshift : (a ^^^ b) <<< 1 = a <<< 1 ^^^ b <<< 1 := BitVec.shiftLeft_xor_distrib ..
  rw [gfXtime_eq_xor, gfXtime_eq_xor a, gfXtime_eq_xor b, hshift, BitVec.getLsbD_xor, ite_xor]
  ac_rfl

/-! ### The loop of `GF_MUL` -/

/-- The sum so far stays apart from what the loop adds. -/
theorem gfMulLoop_eq_xor (k : Nat) (a b p : Byte) : gfMulLoop k a b p = p ^^^ gfMulLoop k a b 0#8 := by
  induction k generalizing a b p with
  | zero => simp [gfMulLoop]
  | succ k ih =>
    rw [gfMulLoop, ih, gfMulLoop, ih _ _ (if b.getLsbD 0 then _ else _)]
    split <;> simp [BitVec.xor_assoc]

theorem gfMulLoop_zero (a b : Byte) : gfMulLoop 0 a b 0#8 = 0#8 := by
  rw [gfMulLoop]

theorem gfMulLoop_succ (k : Nat) (a b : Byte) :
    gfMulLoop (k + 1) a b 0#8 = (if b.getLsbD 0 then a else 0#8) ^^^ gfMulLoop k (gfXtime a) (b >>> 1) 0#8 := by
  rw [gfMulLoop, gfMulLoop_eq_xor, BitVec.zero_xor]

theorem gfMulLoop_xor_left (k : Nat) (a a' b : Byte) :
    gfMulLoop k (a ^^^ a') b 0#8 = gfMulLoop k a b 0#8 ^^^ gfMulLoop k a' b 0#8 := by
  induction k generalizing a a' b with
  | zero => simp [gfMulLoop_zero]
  | succ k ih =>
    have hbit : (if b.getLsbD 0 then a ^^^ a' else 0#8)
        = (if b.getLsbD 0 then a else 0#8) ^^^ (if b.getLsbD 0 then a' else 0#8) := by
      split <;> simp
    rw [gfMulLoop_succ, gfMulLoop_succ, gfMulLoop_succ, gfXtime_xor, ih, hbit]
    ac_rfl

theorem gfMulLoop_xor_right (k : Nat) (a b b' : Byte) :
    gfMulLoop k a (b ^^^ b') 0#8 = gfMulLoop k a b 0#8 ^^^ gfMulLoop k a b' 0#8 := by
  induction k generalizing a b b' with
  | zero => simp [gfMulLoop_zero]
  | succ k ih =>
    have hshift : (b ^^^ b') >>> 1 = b >>> 1 ^^^ b' >>> 1 := BitVec.ushiftRight_xor_distrib ..
    rw [gfMulLoop_succ, gfMulLoop_succ, gfMulLoop_succ, hshift, ih, BitVec.getLsbD_xor, ite_xor]
    ac_rfl

theorem gfMulLoop_gfXtime_left (k : Nat) (a b : Byte) :
    gfMulLoop k (gfXtime a) b 0#8 = gfXtime (gfMulLoop k a b 0#8) := by
  induction k generalizing a b with
  | zero => simp [gfMulLoop_zero]
  | succ k ih =>
    rw [gfMulLoop_succ, gfMulLoop_succ, ih, gfXtime_xor]
    split <;> simp

/-- Every sum of multiples of `a` by powers of `x` has what `0` and `a` have and `^^^` and `gfXtime` keep. -/
theorem gfMulLoop_induction {P : Byte → Prop} (hzero : P 0#8) (hxor : ∀ a b, P a → P b → P (a ^^^ b))
    (hxtime : ∀ a, P a → P (gfXtime a)) (k : Nat) (a b : Byte) (ha : P a) : P (gfMulLoop k a b 0#8) := by
  induction k generalizing a b with
  | zero => exact gfMulLoop_zero a b ▸ hzero
  | succ k ih =>
    rw [gfMulLoop_succ]
    refine hxor _ _ ?_ (ih _ _ (hxtime a ha))
    split
    · exact ha
    · exact hzero

/-! ### The laws of `GF_MUL` -/

theorem gfMul_xor_left (a a' b : Byte) : gfMul (a ^^^ a') b = gfMul a b ^^^ gfMul a' b := gfMulLoop_xor_left 8 a a' b

theorem gfMul_xor_right (a b b' : Byte) : gfMul a (b ^^^ b') = gfMul a b ^^^ gfMul a b' := gfMulLoop_xor_right 8 a b b'

theorem gfMul_gfXtime_left (a b : Byte) : gfMul (gfXtime a) b = gfXtime (gfMul a b) := gfMulLoop_gfXtime_left 8 a b

@[simp] theorem gfMul_zero_left (b : Byte) : gfMul 0#8 b = 0#8 := by
  simpa using gfMul_xor_left b b b

@[simp] theorem gfMul_zero_right (a : Byte) : gfMul a 0#8 = 0#8 := by
  simpa using gfMul_xor_right a a a

/-- The bytes are the sums of powers of `x`: what holds of 0 and 1 and is kept by `^^^` and `gfXtime` holds of every byte. -/
theorem byte_induction {P : Byte → Prop} (hzero : P 0#8) (hone : P 1#8) (hxor : ∀ a b, P a → P b → P (a ^^^ b))
    (hxtime : ∀ a, P a → P (gfXtime a)) (b : Byte) : P b :=
  gfMul_one_left b ▸ gfMulLoop_induction hzero hxor hxtime 8 1#8 b hone

theorem gfMul_gfXtime_right (a b : Byte) : gfMul a (gfXtime b) = gfXtime (gfMul a b) := by
  induction a using byte_induction with
  | hzero => simp
  | hone => rw [gfMul_one_left, gfMul_one_left]
  | hxor a a' ha ha' => rw [gfMul_xor_left, gfMul_xor_left, gfXtime_xor, ha, ha']
  | hxtime a ha => rw [gfMul_gfXtime_left, gfMul_gfXtime_left, ha]

theorem gfMul_one_right (a : Byte) : gfMul a 1#8 = a := by
  induction a using byte_induction with
  | hzero => exact gfMul_zero_left _
  | hone => exact gfMul_one_left _
  | hxor a a' ha ha' => rw [gfMul_xor_left, ha, ha']
  | hxtime a ha => rw [gfMul_gfXtime_left, ha]

theorem gfMul_comm (a b : Byte) : gfMul a b = gfMul b a := by
  induction b using byte_induction with
  | hzero => rw [gfMul_zero_left, gfMul_zero_right]
  | hone => rw [gfMul_one_left, gfMul_one_right]
  | hxor b b' hb hb' => rw [gfMul_xor_left, gfMul_xor_right, hb, hb']
  | hxtime b hb => rw [gfMul_gfXtime_left, gfMul_gfXtime_right, hb]

theorem gfMul_assoc (a b c : Byte) : gfMul (gfMul a b) c = gfMul a (gfMul b c) := by
  induction c using byte_induction with
  | hzero => simp
  | hone => rw [gfMul_one_right, gfMul_one_right]
  | hxor c c' hc hc' => rw [gfMul_xor_right, gfMul_xor_right, gfMul_xor_right, hc, hc']
  | hxtime c hc => rw [gfMul_gfXtime_right, gfMul_gfXtime_right, gfMul_gfXtime_right, hc]

theorem gfMul_gfInv {a : Byte} (ha : a ≠ 0#8) : gfMul a (gfInv a) = 1#8 := by
  revert a
  decide +kernel

@[simp] theorem gfInv_zero : gfInv 0#8 = 0#8 := by decide +kernel

/-! ### The field -/

/-- The bytes, as a type without the arithmetic of numbers modulo 256. -/
def GF : Type := Byte

/-- The field of R141: XOR is the sum, `GF_MUL` the product. -/
@[reducible] def GF.field : Field GF :=
  letI : Add GF := ⟨fun a b : Byte => a ^^^ b⟩
  letI : Mul GF := ⟨gfMul⟩
  letI : Neg GF := ⟨id⟩
  letI : Inv GF := ⟨gfInv⟩
  letI : Zero GF := ⟨0#8⟩
  letI : One GF := ⟨1#8⟩
  Field.ofMinimalAxioms GF BitVec.xor_assoc (fun _ => BitVec.zero_xor) (fun _ => BitVec.xor_self) gfMul_assoc gfMul_comm
    gfMul_one_left (fun _ => gfMul_gfInv) gfInv_zero gfMul_xor_right ⟨0#8, 1#8, show (0#8 : Byte) ≠ 1#8 by decide⟩

/-- A field the bytes are elements of: `^^^` is its sum and `GF_MUL` its product. The facts about the code are facts about the
values of the bytes in such a field, where Mathlib's algebra applies. -/
structure ByteField (K : Type) [Field K] where
  val : Byte → K
  val_injective : Function.Injective val
  val_xor : ∀ a b, val (a ^^^ b) = val a + val b
  val_gfMul : ∀ a b, val (gfMul a b) = val a * val b

/-- There is one: the bytes themselves. -/
theorem exists_byteField : ∃ (K : Type) (_ : Field K), Nonempty (ByteField K) :=
  ⟨GF, GF.field, ⟨@ByteField.mk GF GF.field id Function.injective_id (fun _ _ => rfl) fun _ _ => rfl⟩⟩

namespace ByteField

variable {K : Type} [Field K] (φ : ByteField K)

@[simp] theorem val_zero : φ.val 0#8 = 0 := by
  simpa using φ.val_xor 0#8 0#8

theorem val_eq_zero_iff {a : Byte} : φ.val a = 0 ↔ a = 0#8 := by
  rw [← φ.val_zero, φ.val_injective.eq_iff]

@[simp] theorem val_one : φ.val 1#8 = 1 := by
  have hne : φ.val 1#8 ≠ 0 := mt φ.val_eq_zero_iff.1 (by decide)
  have hsq : φ.val 1#8 * φ.val 1#8 = φ.val 1#8 * 1 := by rw [← φ.val_gfMul, gfMul_one_right, mul_one]
  exact mul_left_cancel₀ hne hsq

include φ in
theorem two_eq_zero : (2 : K) = 0 := by
  have h : φ.val (1#8 ^^^ 1#8) = 0 := φ.val_zero
  rwa [φ.val_xor, val_one, one_add_one_eq_two] at h

include φ in
theorem add_self (x : K) : x + x = 0 := by
  rw [← two_mul, φ.two_eq_zero, zero_mul]

include φ in
theorem neg_eq (x : K) : -x = x := by
  rw [neg_eq_iff_add_eq_zero, φ.add_self]

@[simp] theorem val_gfPow (a : Byte) (e : Nat) : φ.val (gfPow a e) = φ.val a ^ e := by
  induction e with
  | zero => rw [gfPow, φ.val_one, pow_zero]
  | succ e ih => rw [gfPow, φ.val_gfMul, ih, pow_succ]

theorem val_gfInv (a : Byte) : φ.val (gfInv a) = (φ.val a)⁻¹ := by
  by_cases ha : a = 0#8
  · simp [ha]
  · refine eq_inv_of_mul_eq_one_right ?_
    rw [← φ.val_gfMul, gfMul_gfInv ha, val_one]

end ByteField

/-! ### Powers -/

theorem gfPow_add (a : Byte) (m n : Nat) : gfPow a (m + n) = gfMul (gfPow a m) (gfPow a n) := by
  obtain ⟨K, _, ⟨φ⟩⟩ := exists_byteField
  exact φ.val_injective (by simp [φ.val_gfMul, pow_add])

theorem gfPow_ne_zero {a : Byte} (ha : a ≠ 0#8) (e : Nat) : gfPow a e ≠ 0#8 := by
  obtain ⟨K, _, ⟨φ⟩⟩ := exists_byteField
  rw [← φ.val_eq_zero_iff.ne, φ.val_gfPow]
  exact pow_ne_zero e (φ.val_eq_zero_iff.ne.2 ha)

/-- The inverse is the power 254: the loop multiplies `a^2, a^4, …, a^(2^k)`. -/
theorem gfMul_gfInvLoop (k : Nat) (a : Byte) : gfMul (gfInvLoop k a) (gfPow a 2) = gfPow a (2 ^ (k + 1)) := by
  obtain ⟨K, _, ⟨φ⟩⟩ := exists_byteField
  refine φ.val_injective ?_
  induction k generalizing a with
  | zero => simp [gfInvLoop, φ.val_gfMul]
  | succ k ih =>
    have hsquare := ih (gfMul a a)
    simp only [φ.val_gfMul, φ.val_gfPow, gfInvLoop] at hsquare ⊢
    calc φ.val a * φ.val a * φ.val (gfInvLoop k (gfMul a a)) * φ.val a ^ 2
      _ = φ.val (gfInvLoop k (gfMul a a)) * (φ.val a * φ.val a) ^ 2 := by ring
      _ = (φ.val a * φ.val a) ^ 2 ^ (k + 1) := hsquare
      _ = φ.val a ^ 2 ^ (k + 1 + 1) := by ring

/-- The nonzero elements have order dividing 255 (R143). -/
theorem gfPow_255 {a : Byte} (ha : a ≠ 0#8) : gfPow a 255 = 1#8 := by
  have h256 : gfMul (gfInv a) (gfPow a 2) = gfPow a (255 + 1) := gfMul_gfInvLoop 7 a
  obtain ⟨K, _, ⟨φ⟩⟩ := exists_byteField
  have ha' : φ.val a ≠ 0 := φ.val_eq_zero_iff.ne.2 ha
  have h := congrArg φ.val h256
  rw [φ.val_gfMul, φ.val_gfInv, φ.val_gfPow, φ.val_gfPow, pow_two, inv_mul_cancel_left₀ ha', pow_succ,
    right_eq_mul₀ ha'] at h
  exact φ.val_injective (by rw [φ.val_gfPow, h, φ.val_one])

theorem ByteField.val_pow_255 {K : Type} [Field K] (φ : ByteField K) {a : Byte} (ha : a ≠ 0#8) : φ.val a ^ 255 = 1 := by
  rw [← φ.val_gfPow, gfPow_255 ha, φ.val_one]

theorem gfPow_mod {a : Byte} (ha : a ≠ 0#8) (e : Nat) : gfPow a (e % 255) = gfPow a e := by
  obtain ⟨K, _, ⟨φ⟩⟩ := exists_byteField
  refine φ.val_injective ?_
  rw [φ.val_gfPow, φ.val_gfPow, ← pow_eq_pow_mod e (φ.val_pow_255 ha)]

/-- A primitive element: its powers below 255 are different. -/
theorem gfPow_injOn {g : Byte} (hg : gfPrimitive g = true) : Set.InjOn (gfPow g) {e | e < 255} := by
  obtain ⟨hne, hone⟩ := (gfPrimitive_iff g).1 hg
  obtain ⟨K, _, ⟨φ⟩⟩ := exists_byteField
  have hle (m n : Nat) (hn : n < 255) (hmn : m ≤ n) (h : gfPow g m = gfPow g n) : m = n := by
    by_contra hmn'
    have hval := congrArg φ.val h
    rw [φ.val_gfPow, φ.val_gfPow, ← Nat.add_sub_of_le hmn, pow_add, left_eq_mul₀] at hval
    · exact hone (n - m) (by omega) (by omega) (φ.val_injective (by rw [φ.val_gfPow, hval, φ.val_one]))
    · exact pow_ne_zero m (φ.val_eq_zero_iff.ne.2 hne)
  intro m hm n hn h
  rcases Nat.le_total m n with hmn | hnm
  · exact hle m n hn hmn h
  · exact (hle n m hm hnm h.symm).symm

/-- A primitive element: every nonzero byte is a power of it, because there are 255 of both. -/
theorem exists_gfPow_eq {g a : Byte} (hg : gfPrimitive g = true) (ha : a ≠ 0#8) : ∃ e < 255, gfPow g e = a := by
  have hne := ((gfPrimitive_iff g).1 hg).1
  have hsub : (Finset.range 255).image (gfPow g) ⊆ Finset.univ.erase 0#8 := by
    intro b hb
    obtain ⟨e, -, rfl⟩ := Finset.mem_image.1 hb
    exact Finset.mem_erase.2 ⟨gfPow_ne_zero hne e, Finset.mem_univ _⟩
  have hcard : (Finset.univ.erase (0#8 : Byte)).card ≤ ((Finset.range 255).image (gfPow g)).card := by
    rw [Finset.card_image_of_injOn (by simpa [Set.InjOn] using gfPow_injOn hg), Finset.card_erase_of_mem (Finset.mem_univ _),
      Finset.card_univ, ← FinEnum.card_eq_fintypeCard, FinEnum.card_bitVec, Finset.card_range]
    decide
  have hmem : a ∈ (Finset.range 255).image (gfPow g) :=
    Finset.eq_of_subset_of_card_le hsub hcard ▸ Finset.mem_erase.2 ⟨ha, Finset.mem_univ a⟩
  simpa using hmem

/-! ### The tables -/

theorem gfExpTable_eq_map : gfExpTable = (List.range 255).map (gfPow 0x02#8) := by
  rw [List.range_eq_range', ← gfPowersFrom_gfPow]
  rfl

theorem gfExp_eq_gfPow (e : Nat) : gfExp e = gfPow 0x02#8 e := by
  have hlt : e % 255 < 255 := Nat.mod_lt e (by decide)
  rw [← gfPow_mod (by decide) e, gfExp, gfExpTable_eq_map]
  simp [List.getD_eq_getElem?_getD, hlt]

/-- `GF_LOG` finds the exponent of every nonzero byte. -/
theorem gfLog_spec {a : Byte} (ha : a ≠ 0#8) : gfLog a < 255 ∧ gfPow 0x02#8 (gfLog a) = a := by
  obtain ⟨e, he, rfl⟩ := exists_gfPow_eq gfPrimitive_two ha
  have hmem : gfPow 0x02#8 e ∈ (List.range 255).map (gfPow 0x02#8) := List.mem_map_of_mem (List.mem_range.2 he)
  have hlt := List.idxOf_lt_length_of_mem hmem
  have hget := List.getElem_idxOf hlt
  rw [List.getElem_map, List.getElem_range] at hget
  rw [List.length_map, List.length_range] at hlt
  rw [gfLog, gfExpTable_eq_map]
  exact ⟨hlt, hget⟩

/-- Settles O42: the laws by `byte_induction`; the tables hold the powers of 0x02 and their exponents. -/
theorem bytesAreAField : Obligations.BytesAreAField := by
  refine ⟨gfMul_comm, gfMul_assoc, gfMul_xor_right, fun a => ⟨gfMul_one_right a, gfMul_zero_right a⟩,
    fun a ha => ⟨gfMul_gfInv ha, ?_⟩, fun a b ha hb => ?_⟩
  · obtain ⟨hlt, hlog⟩ := gfLog_spec ha
    calc gfInv a
      _ = gfMul (gfInv a) (gfPow 0x02#8 (gfLog a + (255 - gfLog a))) := by
        rw [Nat.add_sub_of_le hlt.le, gfPow_255 (by decide), gfMul_one_right]
      _ = gfMul (gfMul a (gfInv a)) (gfPow 0x02#8 (255 - gfLog a)) := by
        rw [gfPow_add, hlog, ← gfMul_assoc, gfMul_comm a]
      _ = gfExp (255 - gfLog a) := by rw [gfMul_gfInv ha, gfMul_one_left, gfExp_eq_gfPow]
  · rw [gfExp_eq_gfPow, gfPow_add, (gfLog_spec ha).2, (gfLog_spec hb).2]

end Sys2Proof.Machine
end

section
/-! The coefficient lists of the model as polynomials: what each list operation of 43_blockfec.md rule R152 is in `K[X]`, for a field
`K` the bytes are elements of. -/

namespace Sys2Proof.Machine

open Polynomial

variable {K : Type} [Field K] (φ : ByteField K)

/-- The polynomial of a coefficient list, lowest power first (R152). -/
noncomputable def ByteField.poly : Bytes → K[X]
  | [] => 0
  | a :: p => C (φ.val a) + X * ByteField.poly p

namespace ByteField

@[simp] theorem poly_nil : φ.poly [] = 0 := rfl

theorem poly_cons (a : Byte) (p : Bytes) : φ.poly (a :: p) = C (φ.val a) + X * φ.poly p := rfl

@[simp] theorem poly_singleton (a : Byte) : φ.poly [a] = C (φ.val a) := by
  simp [poly_cons]

theorem poly_append (p q : Bytes) : φ.poly (p ++ q) = φ.poly p + X ^ p.length * φ.poly q := by
  induction p with
  | nil => simp
  | cons a p ih => rw [List.cons_append, poly_cons, poly_cons, ih, List.length_cons]; ring

/-- The coefficients are the entries; beyond the end a missing byte reads as 0. -/
theorem coeff_poly (p : Bytes) (j : Nat) : (φ.poly p).coeff j = φ.val (p.getD j 0#8) := by
  induction p generalizing j with
  | nil => simp
  | cons a p ih =>
    cases j with
    | zero => simp [poly_cons]
    | succ j => simp [poly_cons, coeff_X_mul, ih, coeff_C_succ]

theorem degree_poly_lt (p : Bytes) : (φ.poly p).degree < p.length := by
  refine (degree_lt_iff_coeff_zero _ _).2 fun j hj => ?_
  rw [coeff_poly, List.getD_eq_default _ _ hj, val_zero]

/-! ### The list operations -/

theorem poly_polyAdd (p q : Bytes) : φ.poly (polyAdd p q) = φ.poly p + φ.poly q := by
  induction p, q using polyAdd.induct with
  | case1 q => simp [polyAdd]
  | case2 p hp =>
    cases p with
    | nil => exact absurd rfl hp
    | cons a p => simp [polyAdd]
  | case3 a p b q ih =>
    rw [polyAdd, poly_cons, poly_cons, poly_cons, ih, φ.val_xor, C_add]
    ring

theorem poly_polyScale (c : Byte) (p : Bytes) : φ.poly (polyScale c p) = C (φ.val c) * φ.poly p := by
  induction p with
  | nil => simp [polyScale]
  | cons a p ih =>
    have hcons : polyScale c (a :: p) = gfMul c a :: polyScale c p := rfl
    rw [hcons, poly_cons, poly_cons, ih, φ.val_gfMul, C_mul]
    ring

theorem poly_polyShift (m : Nat) (p : Bytes) : φ.poly (polyShift m p) = X ^ m * φ.poly p := by
  induction m with
  | zero => simp [polyShift]
  | succ m ih =>
    have hcons : polyShift (m + 1) p = 0#8 :: polyShift m p := rfl
    rw [hcons, poly_cons, ih, val_zero, C_0]
    ring

theorem poly_polyMul (p q : Bytes) : φ.poly (polyMul p q) = φ.poly p * φ.poly q := by
  induction p with
  | nil => simp [polyMul]
  | cons a p ih =>
    have hzero : φ.poly (0 :: polyMul p q) = X * φ.poly (polyMul p q) := by simp [poly_cons]
    rw [polyMul, poly_polyAdd, poly_polyScale, hzero, ih, poly_cons]
    ring

theorem val_polyEval (p : Bytes) (x : Byte) : φ.val (polyEval p x) = (φ.poly p).eval (φ.val x) := by
  induction p with
  | nil => simp [polyEval]
  | cons a p ih =>
    have hcons : polyEval (a :: p) x = a ^^^ gfMul x (polyEval p x) := rfl
    rw [hcons, φ.val_xor, φ.val_gfMul, ih, poly_cons]
    simp

include φ in
theorem two_eq_zero_poly : (2 : K[X]) = 0 := by
  rw [← C_ofNat, φ.two_eq_zero, C_0]

/-- In characteristic 2 the even multiples that the derivative makes are 0. -/
theorem poly_keepAlternate (p : Bytes) : φ.poly (keepAlternate p) = derivative (X * φ.poly p) := by
  induction p using keepAlternate.induct with
  | case1 => simp [keepAlternate]
  | case2 a => simp [keepAlternate]
  | case3 a b p ih =>
    have hzero : φ.poly (0 :: keepAlternate p) = X * φ.poly (keepAlternate p) := by simp [poly_cons]
    rw [keepAlternate, poly_cons, hzero, ih, poly_cons, poly_cons]
    simp only [derivative_mul, derivative_add, derivative_X, derivative_C]
    linear_combination (-X * C (φ.val b) - X ^ 2 * φ.poly p) * φ.two_eq_zero_poly

/-- R152: the formal derivative. -/
theorem poly_polyDeriv (p : Bytes) : φ.poly (polyDeriv p) = derivative (φ.poly p) := by
  cases p with
  | nil => simp [polyDeriv, keepAlternate]
  | cons a p =>
    rw [polyDeriv, List.tail_cons, poly_keepAlternate, poly_cons]
    simp

theorem polyDeg_append_singleton (p : Bytes) (a : Byte) :
    polyDeg (p ++ [a]) = if a = 0#8 then polyDeg p else p.length := by
  by_cases ha : a = 0#8 <;> simp [polyDeg, ha]

/-- R152: the degree that the model reads off the list. -/
theorem polyDeg_eq_natDegree (p : Bytes) : polyDeg p = (φ.poly p).natDegree := by
  induction p using List.reverseRecOn with
  | nil => simp [polyDeg]
  | append_singleton p a ih =>
    rw [polyDeg_append_singleton, poly_append, poly_singleton, mul_comm]
    split
    case isTrue ha => rw [ha, ih, val_zero, C_0, zero_mul, add_zero]
    case isFalse ha =>
      have hval := φ.val_eq_zero_iff.ne.2 ha
      rw [natDegree_add_eq_right_of_degree_lt, natDegree_C_mul_X_pow _ _ hval]
      rw [degree_C_mul_X_pow _ hval]
      exact φ.degree_poly_lt p

end ByteField

end Sys2Proof.Machine
end

section
/-! Linear recurrences in polynomials over a field: the invariant of the Berlekamp-Massey loop (43_blockfec.md rule R152) and
Massey's bound on the length of a recurrence. `S` is the polynomial of the syndromes. -/

namespace Sys2Proof.Machine

open Polynomial

variable {K : Type} [Field K] {S Λ Λ' P : K[X]} {L L' k : Nat} {b : K}

/-- `Λ` is a recurrence of length `L` for the first `k` coefficients of `S`: those of `S * Λ` from `L` on are 0. -/
structure Generates (S Λ : K[X]) (L k : Nat) : Prop where
  const : Λ.coeff 0 = 1
  degree : Λ.natDegree ≤ L
  zeros : ∀ j, L ≤ j → j < k → (S * Λ).coeff j = 0

/-- `P` can correct a recurrence of length `L` at the coefficient `k` and leaves the earlier ones: `b` is what it gives there. At
`L = 0` the correction makes the recurrence so long that nothing is asked of it. -/
structure Corrects (S P : K[X]) (L k : Nat) (b : K) : Prop where
  const : P.coeff 0 = 0
  degree : P.natDegree ≤ k + 1 - L
  zeros : ∀ j, k + 1 - L ≤ j → j < k → (S * P).coeff j = 0
  last : L = 0 ∨ (S * P).coeff k = b

theorem natDegree_X_mul_le (p : K[X]) : (X * p).natDegree ≤ p.natDegree + 1 := by
  rw [add_comm]
  exact natDegree_mul_le.trans (Nat.add_le_add_right natDegree_X_le _)

theorem coeff_mul_X_mul_succ (p q : K[X]) (j : Nat) : (p * (X * q)).coeff (j + 1) = (p * q).coeff j := by
  rw [mul_left_comm, coeff_X_mul]

namespace Generates

/-- No discrepancy: the recurrence goes on. -/
theorem succ (h : Generates S Λ L k) (hk : (S * Λ).coeff k = 0) : Generates S Λ L (k + 1) where
  const := h.const
  degree := h.degree
  zeros j hL hj := by
    rcases Nat.lt_succ_iff_lt_or_eq.1 hj with hlt | rfl
    · exact h.zeros j hL hlt
    · exact hk

theorem of_succ (h : Generates S Λ L (k + 1)) : Generates S Λ L k :=
  ⟨h.const, h.degree, fun j hL hj => h.zeros j hL (Nat.lt_succ_of_lt hj)⟩

/-- A discrepancy: it is corrected, and the recurrence is as long as the longer of the two. -/
theorem update (h : Generates S Λ L k) (hP : Corrects S P L k b) (hb : b ≠ 0) :
    Generates S (Λ - C ((S * Λ).coeff k / b) * P) (max L (k + 1 - L)) (k + 1) where
  const := by simp [h.const, hP.const]
  degree := by
    refine (natDegree_sub_le _ _).trans (max_le_max h.degree ?_)
    exact (natDegree_C_mul_le _ _).trans hP.degree
  zeros j hL hj := by
    have hcoeff : (S * (Λ - C ((S * Λ).coeff k / b) * P)).coeff j
        = (S * Λ).coeff j - (S * Λ).coeff k / b * (S * P).coeff j := by
      rw [mul_sub, mul_left_comm, coeff_sub, coeff_C_mul]
    rw [hcoeff]
    rcases Nat.lt_succ_iff_lt_or_eq.1 hj with hlt | rfl
    · rw [h.zeros j (by omega) hlt, hP.zeros j (by omega) hlt, mul_zero, sub_zero]
    · rw [hP.last.resolve_left (by omega), div_mul_cancel₀ _ hb, sub_self]

end Generates

namespace Corrects

/-- One turn later the correction stands one place further. -/
theorem shift (h : Corrects S P L k b) (hL : L ≤ k) : Corrects S (X * P) L (k + 1) b where
  const := by simp
  degree := by
    have := natDegree_X_mul_le P
    have := h.degree
    omega
  zeros j hj hjk := by
    obtain ⟨i, rfl⟩ : ∃ i, j = i + 1 := ⟨j - 1, by omega⟩
    rw [coeff_mul_X_mul_succ]
    exact h.zeros i (by omega) (by omega)
  last := h.last.imp_right fun hlast => by rwa [coeff_mul_X_mul_succ]

/-- A recurrence that failed at `k` corrects the later ones. -/
theorem of_generates (h : Generates S Λ L k) (hL : L ≤ k) :
    Corrects S (X * Λ) (k + 1 - L) (k + 1) ((S * Λ).coeff k) where
  const := by simp
  degree := by
    have := natDegree_X_mul_le Λ
    have := h.degree
    omega
  zeros j hj hjk := by
    obtain ⟨i, rfl⟩ : ∃ i, j = i + 1 := ⟨j - 1, by omega⟩
    rw [coeff_mul_X_mul_succ]
    exact h.zeros i (by omega) (by omega)
  last := .inr (coeff_mul_X_mul_succ S Λ k)

end Corrects

/-! ### Massey's bound -/

/-- Across a gap in the coefficients of `p` only the constant term of `q` reaches coefficient `k` of the product. -/
theorem coeff_mul_of_gap {p q : K[X]} {a k : Nat} (hp : ∀ j, a ≤ j → j < k → p.coeff j = 0) (hq : a + q.natDegree ≤ k) :
    (p * q).coeff k = p.coeff k * q.coeff 0 := by
  rw [coeff_mul]
  refine Finset.sum_eq_single (k, 0) (fun ij hij hne => ?_) (fun hk => absurd (by simp) hk)
  obtain ⟨i, j⟩ := ij
  rw [Finset.HasAntidiagonal.mem_antidiagonal] at hij
  have hik : i ≠ k := fun h => hne (Prod.ext h (by simp only at hij ⊢; omega))
  simp only at hij ⊢
  rcases Nat.lt_or_ge i a with hi | hi
  · rw [coeff_eq_zero_of_natDegree_lt (p := q) (by omega), mul_zero]
  · rw [hp i hi (by omega), zero_mul]

/-- Massey: a recurrence that does not fail where one of length `L` does is at least `k + 1 - L` long. -/
theorem Generates.lt_add_length (h : Generates S Λ L k) (hk : (S * Λ).coeff k ≠ 0) (h' : Generates S Λ' L' (k + 1)) :
    k < L + L' := by
  by_contra hle
  have hdeg := h.degree
  have hdeg' := h'.degree
  have hΛ : (S * Λ * Λ').coeff k = (S * Λ).coeff k := by
    rw [coeff_mul_of_gap h.zeros (by omega), h'.const, mul_one]
  have hΛ' : (S * Λ' * Λ).coeff k = 0 := by
    rw [coeff_mul_of_gap (fun j hL hj => h'.zeros j hL (by omega)) (by omega), h'.zeros k (by omega) (by omega), zero_mul]
  rw [mul_right_comm, hΛ] at hΛ'
  exact hk hΛ'

end Sys2Proof.Machine
end

section
/-! Error locators and the key equation (43_blockfec.md rules R148, R152), in any field: errors at the positions of a finite set `E`
with different nonzero locators `x` and nonzero weights `y` have the syndromes `S_j = Σ y_i x_i^j`. -/

namespace Sys2Proof.Machine

open Polynomial

variable {K : Type} [Field K]

/-! ### Products and powers of `X` -/

/-- What is 0 from `a` on, times what has degree at most `b`, is 0 from `a + b` on. -/
theorem coeff_mul_of_le {p q : K[X]} {a b j : Nat} (hp : ∀ i, a ≤ i → p.coeff i = 0) (hq : q.natDegree ≤ b)
    (hj : a + b ≤ j) : (p * q).coeff j = 0 := by
  rw [coeff_mul]
  refine Finset.sum_eq_zero fun il hil => ?_
  rw [Finset.HasAntidiagonal.mem_antidiagonal] at hil
  rcases Nat.lt_or_ge il.1 a with hi | hi
  · rw [coeff_eq_zero_of_natDegree_lt (p := q) (by omega), mul_zero]
  · rw [hp _ hi, zero_mul]

theorem coeff_eq_of_X_pow_dvd_sub {p q : K[X]} {t j : Nat} (h : X ^ t ∣ p - q) (hj : j < t) : p.coeff j = q.coeff j := by
  rw [← sub_eq_zero, ← coeff_sub]
  exact X_pow_dvd_iff.1 h j hj

/-- A recurrence of length `L` has an evaluator too: the part of the product below `L`. -/
theorem Generates.exists_evaluator {S Λ : K[X]} {L t : Nat} (h : Generates S Λ L t) :
    ∃ Ω : K[X], (∀ j, L ≤ j → Ω.coeff j = 0) ∧ X ^ t ∣ S * Λ - Ω := by
  have hcoeff (j : Nat) :
      (∑ i ∈ Finset.range L, monomial i ((S * Λ).coeff i)).coeff j = if j < L then (S * Λ).coeff j else 0 := by
    simp [coeff_monomial]
  refine ⟨∑ i ∈ Finset.range L, monomial i ((S * Λ).coeff i), fun j hj => ?_, X_pow_dvd_iff.2 fun j hj => ?_⟩
  · rw [hcoeff, if_neg (by omega)]
  · rw [coeff_sub, hcoeff]
    split
    · exact sub_self _
    · rw [h.zeros j (by omega) hj, sub_zero]

/-! ### Locators, evaluators, syndromes -/

variable (E : Finset Nat) (x y : Nat → K)

/-- The error locator polynomial `Π (1 - x_i X)`. -/
noncomputable def locatorPoly : K[X] := ∏ i ∈ E, (1 - C (x i) * X)

/-- The error evaluator polynomial `Σ y_i Π_{l ≠ i} (1 - x_l X)`. -/
noncomputable def evaluatorPoly : K[X] := ∑ i ∈ E, C (y i) * locatorPoly (E.erase i) x

/-- The polynomial of the first `t` syndromes, `Σ_{j < t} (Σ y_i x_i^j) X^j`. -/
noncomputable def syndromePoly (t : Nat) : K[X] := ∑ i ∈ E, C (y i) * ∑ j ∈ Finset.range t, (C (x i) * X) ^ j

theorem coeff_syndromePoly (t j : Nat) :
    (syndromePoly E x y t).coeff j = if j < t then ∑ i ∈ E, y i * x i ^ j else 0 := by
  have hgeom (i : Nat) : (∑ j ∈ Finset.range t, (C (x i) * X) ^ j).coeff j = if j < t then x i ^ j else 0 := by
    have hterm (k : Nat) : ((C (x i) * X) ^ k).coeff j = if j = k then x i ^ k else 0 := by
      rw [mul_pow, ← C_pow, coeff_C_mul, coeff_X_pow, mul_ite, mul_one, mul_zero]
    simp only [finsetSum_coeff, hterm, Finset.sum_ite_eq, Finset.mem_range]
  simp only [syndromePoly, finsetSum_coeff, coeff_C_mul, hgeom]
  split <;> simp

variable {E x y}

theorem locatorPoly_eq_mul {i : Nat} (hi : i ∈ E) : locatorPoly E x = (1 - C (x i) * X) * locatorPoly (E.erase i) x :=
  (Finset.mul_prod_erase E (fun i => 1 - C (x i) * X) hi).symm

theorem coeff_zero_locatorPoly : (locatorPoly E x).coeff 0 = 1 := by
  simp [locatorPoly, coeff_zero_eq_eval_zero, eval_prod]

theorem natDegree_locatorPoly_le : (locatorPoly E x).natDegree ≤ E.card := by
  have hfactor (i : Nat) : (1 - C (x i) * X : K[X]).natDegree ≤ 1 := by compute_degree
  calc (locatorPoly E x).natDegree
    _ ≤ ∑ i ∈ E, (1 - C (x i) * X : K[X]).natDegree := natDegree_prod_le _ _
    _ ≤ ∑ _i ∈ E, 1 := Finset.sum_le_sum fun i _ => hfactor i
    _ = E.card := by simp

theorem coeff_evaluatorPoly_of_le {j : Nat} (hj : E.card ≤ j) : (evaluatorPoly E x y).coeff j = 0 := by
  rw [evaluatorPoly, finsetSum_coeff]
  refine Finset.sum_eq_zero fun i hi => ?_
  have hpos := Finset.card_pos.2 ⟨i, hi⟩
  have hdeg := natDegree_locatorPoly_le (E := E.erase i) (x := x)
  rw [Finset.card_erase_of_mem hi] at hdeg
  rw [coeff_C_mul, coeff_eq_zero_of_natDegree_lt (by omega), mul_zero]

/-- The key equation (R152: `Ω = S Λ mod x^t`): the product differs from the evaluator in the powers from `t` on alone. -/
theorem X_pow_dvd_key (t : Nat) : (X : K[X]) ^ t ∣ syndromePoly E x y t * locatorPoly E x - evaluatorPoly E x y := by
  rw [syndromePoly, evaluatorPoly, Finset.sum_mul, ← Finset.sum_sub_distrib]
  refine Finset.dvd_sum fun i hi => ?_
  have hgeom : (∑ j ∈ Finset.range t, (C (x i) * X) ^ j) * (1 - C (x i) * X) = 1 - (C (x i) * X) ^ t := geom_sum_mul_neg _ _
  refine ⟨-(C (y i) * C (x i) ^ t * locatorPoly (E.erase i) x), ?_⟩
  rw [locatorPoly_eq_mul hi]
  linear_combination (C (y i) * locatorPoly (E.erase i) x) * hgeom

/-- The locator polynomial is a recurrence for the syndromes. -/
theorem generates_locatorPoly (t : Nat) : Generates (syndromePoly E x y t) (locatorPoly E x) E.card t where
  const := coeff_zero_locatorPoly
  degree := natDegree_locatorPoly_le
  zeros j hj hjt := by rw [coeff_eq_of_X_pow_dvd_sub (X_pow_dvd_key t) hjt, coeff_evaluatorPoly_of_le hj]

/-- Both sides are the product of the syndromes and both locators modulo `X^t`, and both have degree below `t`. -/
theorem exists_mul_locatorPoly_eq {t L : Nat} {Λ : K[X]} (hΛ : Generates (syndromePoly E x y t) Λ L t) (hL : L ≤ E.card)
    (ht : 2 * E.card ≤ t) : ∃ Ω : K[X], evaluatorPoly E x y * Λ = Ω * locatorPoly E x := by
  obtain ⟨Ω, hΩ, hdvd⟩ := hΛ.exists_evaluator
  refine ⟨Ω, ext fun j => ?_⟩
  rcases Nat.lt_or_ge j t with hj | hj
  · refine coeff_eq_of_X_pow_dvd_sub ?_ hj
    have hcombine : evaluatorPoly E x y * Λ - Ω * locatorPoly E x
        = locatorPoly E x * (syndromePoly E x y t * Λ - Ω)
          - Λ * (syndromePoly E x y t * locatorPoly E x - evaluatorPoly E x y) := by ring
    rw [hcombine]
    exact dvd_sub (hdvd.mul_left _) ((X_pow_dvd_key t).mul_left _)
  · have hdeg := hΛ.degree
    rw [coeff_mul_of_le (fun i hi => coeff_evaluatorPoly_of_le hi) hdeg (by omega),
      coeff_mul_of_le hΩ natDegree_locatorPoly_le (by omega)]

/-! ### Roots -/

/-- The roots of the locator polynomial are the inverse locators. -/
theorem eval_locatorPoly_inv_eq_zero_iff {z : K} (hz : z ≠ 0) : (locatorPoly E x).eval z⁻¹ = 0 ↔ ∃ i ∈ E, x i = z := by
  have hfactor (i : Nat) : (1 - C (x i) * X).eval z⁻¹ = 0 ↔ x i = z := by
    rw [eval_sub, eval_one, eval_mul, eval_C, eval_X, sub_eq_zero, eq_mul_inv_iff_mul_eq₀ hz, one_mul, eq_comm]
  simp only [locatorPoly, eval_prod, Finset.prod_eq_zero_iff, hfactor]

/-- The conditions on the errors: nonzero weights, and nonzero locators, no two the same. -/
structure Locatable (E : Finset Nat) (x y : Nat → K) : Prop where
  ne_zero : ∀ i ∈ E, x i ≠ 0
  injOn : Set.InjOn x E
  weight_ne_zero : ∀ i ∈ E, y i ≠ 0

namespace Locatable

variable (h : Locatable E x y) {i : Nat}

include h

/-- The other factors do not vanish at the inverse locator of `i`. -/
theorem eval_erase_ne_zero (hi : i ∈ E) : (locatorPoly (E.erase i) x).eval (x i)⁻¹ ≠ 0 := by
  rw [Ne, eval_locatorPoly_inv_eq_zero_iff (h.ne_zero i hi)]
  rintro ⟨l, hl, hx⟩
  obtain ⟨hne, hlE⟩ := Finset.mem_erase.1 hl
  exact hne (h.injOn hlE hi hx)

/-- Of the evaluator's terms only that of `i` is left at the inverse locator of `i`. -/
theorem eval_evaluatorPoly (hi : i ∈ E) :
    (evaluatorPoly E x y).eval (x i)⁻¹ = y i * (locatorPoly (E.erase i) x).eval (x i)⁻¹ := by
  have hterm (l : Nat) (hl : l ∈ E) (hne : l ≠ i) : (C (y l) * locatorPoly (E.erase l) x).eval (x i)⁻¹ = 0 := by
    rw [eval_mul, (eval_locatorPoly_inv_eq_zero_iff (h.ne_zero i hi)).2 ⟨i, Finset.mem_erase.2 ⟨hne.symm, hi⟩, rfl⟩, mul_zero]
  rw [evaluatorPoly, eval_finsetSum, Finset.sum_eq_single_of_mem i hi fun l hl hne => hterm l hl hne, eval_mul, eval_C]

theorem eval_derivative_locatorPoly (hi : i ∈ E) :
    (derivative (locatorPoly E x)).eval (x i)⁻¹ = -(x i * (locatorPoly (E.erase i) x).eval (x i)⁻¹) := by
  rw [locatorPoly_eq_mul hi]
  simp [derivative_mul, mul_inv_cancel₀ (h.ne_zero i hi)]

/-- No factor is constant. -/
theorem natDegree_locatorPoly : (locatorPoly E x).natDegree = E.card := by
  have hfactor (i : Nat) (hi : i ∈ E) : (1 - C (x i) * X).natDegree = 1 := by
    have hne := h.ne_zero i hi
    compute_degree!
  have hne (i : Nat) (hi : i ∈ E) : 1 - C (x i) * X ≠ 0 := fun h0 => by simpa [h0] using hfactor i hi
  rw [locatorPoly, natDegree_prod _ _ hne, Finset.sum_congr rfl hfactor, Finset.sum_const, smul_eq_mul, mul_one]

theorem eval_evaluatorPoly_ne_zero (hi : i ∈ E) : (evaluatorPoly E x y).eval (x i)⁻¹ ≠ 0 := by
  rw [h.eval_evaluatorPoly hi]
  exact mul_ne_zero (h.weight_ne_zero i hi) (h.eval_erase_ne_zero hi)

/-! ### The recurrence that the syndromes determine -/

/-- R149, R152: with at least twice as many syndromes as errors, no other recurrence of that length generates them. -/
theorem eq_locatorPoly {t L : Nat} {Λ : K[X]} (hΛ : Generates (syndromePoly E x y t) Λ L t) (hL : L ≤ E.card)
    (ht : 2 * E.card ≤ t) : Λ = locatorPoly E x := by
  obtain ⟨Ω, hΩ⟩ := exists_mul_locatorPoly_eq hΛ hL ht
  have hΛE : Λ.natDegree ≤ E.card := hΛ.degree.trans hL
  have hroot (i : Nat) (hi : i ∈ E) : Λ.eval (x i)⁻¹ = 0 := by
    have heval := congrArg (eval (x i)⁻¹) hΩ
    rw [eval_mul, eval_mul, (eval_locatorPoly_inv_eq_zero_iff (h.ne_zero i hi)).2 ⟨i, hi, rfl⟩, mul_zero] at heval
    exact (mul_eq_zero.1 heval).resolve_left (h.eval_evaluatorPoly_ne_zero hi)
  classical
  have hcard : E.card < (insert 0 (E.image fun i => (x i)⁻¹)).card := by
    rw [Finset.card_insert_of_notMem, Finset.card_image_of_injOn]
    · exact Nat.lt_succ_self _
    · exact fun i hi l hl hil => h.injOn hi hl (inv_injective hil)
    · simpa using h.ne_zero
  refine eq_of_degrees_lt_of_eval_finset_eq (insert 0 (E.image fun i => (x i)⁻¹)) ?_ ?_ fun z hz => ?_
  · exact degree_le_natDegree.trans_lt (by exact_mod_cast hΛE.trans_lt hcard)
  · exact degree_le_natDegree.trans_lt (by exact_mod_cast natDegree_locatorPoly_le.trans_lt hcard)
  · rcases Finset.mem_insert.1 hz with rfl | hz
    · rw [← coeff_zero_eq_eval_zero, ← coeff_zero_eq_eval_zero, hΛ.const, coeff_zero_locatorPoly]
    · obtain ⟨i, hi, rfl⟩ := Finset.mem_image.1 hz
      rw [hroot i hi, (eval_locatorPoly_inv_eq_zero_iff (h.ne_zero i hi)).2 ⟨i, hi, rfl⟩]

end Locatable

end Sys2Proof.Machine
end

section
/-! The Berlekamp-Massey loop of the model (43_blockfec.md rule R152): its state is a shortest recurrence for the syndromes read so
far, with a correction for the next failure. -/

namespace Sys2Proof.Machine

open Polynomial

variable {K : Type} [Field K] (φ : ByteField K)

/-- What holds before turn `k` of the loop. -/
structure BmInvariant (syn : Bytes) (k : Nat) (st : BmState) : Prop where
  generates : Generates (φ.poly syn) (φ.poly st.lam) st.len k
  corrects : Corrects (φ.poly syn) (X ^ st.gap * φ.poly st.prev) st.len k (φ.val st.disc)
  len_le : st.len ≤ k
  disc_ne_zero : st.disc ≠ 0#8
  shortest : ∀ (Λ : K[X]) (l : Nat), Generates (φ.poly syn) Λ l k → st.len ≤ l

theorem bmInvariant_start (syn : Bytes) : BmInvariant φ syn 0 bmStart where
  generates := ⟨by simp [bmStart], by simp [bmStart], fun j _ hj => absurd hj (Nat.not_lt_zero j)⟩
  corrects := ⟨by simp [bmStart], by simp [bmStart], fun j _ hj => absurd hj (Nat.not_lt_zero j), .inl rfl⟩
  len_le := le_rfl
  disc_ne_zero := by decide
  shortest _ _ _ := Nat.zero_le _

/-- A loop of XORs is a sum. -/
theorem val_foldl_xor (f : Nat → Byte) (n : Nat) (a : Byte) :
    φ.val ((List.range n).foldl (fun acc i => acc ^^^ f i) a) = φ.val a + ∑ i ∈ Finset.range n, φ.val (f i) := by
  induction n with
  | zero => simp
  | succ n ih => simp [List.range_succ, φ.val_xor, ih, Finset.sum_range_succ, add_assoc]

/-- R152's discrepancy is the coefficient at which the recurrence fails, if it does. -/
theorem val_bmDiscrepancy {syn : Bytes} {k : Nat} {st : BmState}
    (h : Generates (φ.poly syn) (φ.poly st.lam) st.len k) (hlen : st.len ≤ k) :
    φ.val (bmDiscrepancy syn k st) = (φ.poly syn * φ.poly st.lam).coeff k := by
  have hterm (i : Nat) : φ.val (gfMul (st.lam.getD (i + 1) 0#8) (syn.getD (k - (i + 1)) 0#8))
      = (φ.poly st.lam).coeff (i + 1) * (φ.poly syn).coeff (k - (i + 1)) := by
    rw [φ.val_gfMul, φ.coeff_poly, φ.coeff_poly]
  have hconst : (φ.poly st.lam).coeff 0 = 1 := h.const
  rw [bmDiscrepancy, val_foldl_xor, mul_comm, coeff_mul, Finset.Nat.sum_antidiagonal_eq_sum_range_succ_mk,
    Finset.sum_range_succ', hconst, one_mul, add_comm, ← φ.coeff_poly]
  simp only [hterm]
  congr 1
  refine Finset.sum_subset (Finset.range_subset_range.2 hlen) fun i _ hi => ?_
  have hdeg := h.degree
  rw [Finset.mem_range] at hi
  rw [coeff_eq_zero_of_natDegree_lt (by omega), zero_mul]

/-! ### One turn -/

section Turn

variable {syn : Bytes} {k : Nat} {st : BmState}

/-- `Λ ⊕ (d ⊗ bd⁻¹) · x^m · B` (R152). -/
def bmUpdate (d : Byte) (st : BmState) : Bytes :=
  polyAdd st.lam (polyScale (gfMul d (gfInv st.disc)) (polyShift st.gap st.prev))

theorem poly_bmUpdate (d : Byte) (st : BmState) :
    φ.poly (bmUpdate d st) = φ.poly st.lam - C (φ.val d / φ.val st.disc) * (X ^ st.gap * φ.poly st.prev) := by
  rw [bmUpdate, φ.poly_polyAdd, φ.poly_polyScale, φ.poly_polyShift, φ.val_gfMul, φ.val_gfInv, ← div_eq_mul_inv]
  linear_combination (C (φ.val d / φ.val st.disc) * (X ^ st.gap * φ.poly st.prev)) * φ.two_eq_zero_poly

theorem bmStep_of_zero (hd : bmDiscrepancy syn k st = 0#8) : bmStep syn st k = { st with gap := st.gap + 1 } :=
  if_pos hd

theorem bmStep_of_lengthens (hd : bmDiscrepancy syn k st ≠ 0#8) (hk : 2 * st.len ≤ k) :
    bmStep syn st k = { lam := bmUpdate (bmDiscrepancy syn k st) st, prev := st.lam, len := k + 1 - st.len, gap := 1,
                        disc := bmDiscrepancy syn k st } :=
  (if_neg hd).trans (if_pos hk)

theorem bmStep_of_keeps (hd : bmDiscrepancy syn k st ≠ 0#8) (hk : ¬2 * st.len ≤ k) :
    bmStep syn st k = { st with lam := bmUpdate (bmDiscrepancy syn k st) st, gap := st.gap + 1 } :=
  (if_neg hd).trans (if_neg hk)

namespace BmInvariant

variable {φ} (h : BmInvariant φ syn k st)

include h

theorem val_discrepancy : φ.val (bmDiscrepancy syn k st) = (φ.poly syn * φ.poly st.lam).coeff k :=
  val_bmDiscrepancy φ h.generates h.len_le

theorem corrects_succ : Corrects (φ.poly syn) (X ^ (st.gap + 1) * φ.poly st.prev) st.len (k + 1) (φ.val st.disc) := by
  rw [pow_succ', mul_assoc]
  exact h.corrects.shift h.len_le

theorem generates_bmUpdate :
    Generates (φ.poly syn) (φ.poly (bmUpdate (bmDiscrepancy syn k st) st)) (max st.len (k + 1 - st.len)) (k + 1) := by
  rw [poly_bmUpdate, h.val_discrepancy]
  exact h.generates.update h.corrects (φ.val_eq_zero_iff.ne.2 h.disc_ne_zero)

theorem step : BmInvariant φ syn (k + 1) (bmStep syn st k) := by
  have hlen := h.len_le
  by_cases hd : bmDiscrepancy syn k st = 0#8
  · have hgoes_on : (φ.poly syn * φ.poly st.lam).coeff k = 0 := by rw [← h.val_discrepancy, hd, φ.val_zero]
    rw [bmStep_of_zero hd]
    exact ⟨h.generates.succ hgoes_on, h.corrects_succ, hlen.trans (Nat.le_succ k), h.disc_ne_zero,
      fun Λ l hΛ => h.shortest Λ l hΛ.of_succ⟩
  · have hfails : (φ.poly syn * φ.poly st.lam).coeff k ≠ 0 := h.val_discrepancy ▸ φ.val_eq_zero_iff.ne.2 hd
    have hupdate := h.generates_bmUpdate
    by_cases hk : 2 * st.len ≤ k
    · rw [max_eq_right (by omega)] at hupdate
      have hcorrects := Corrects.of_generates h.generates hlen
      rw [← h.val_discrepancy, ← pow_one X] at hcorrects
      rw [bmStep_of_lengthens hd hk]
      refine ⟨hupdate, hcorrects, Nat.sub_le _ _, hd, fun Λ l hΛ => ?_⟩
      have hmassey := h.generates.lt_add_length hfails hΛ
      show k + 1 - st.len ≤ l
      omega
    · rw [max_eq_left (by omega)] at hupdate
      rw [bmStep_of_keeps hd hk]
      exact ⟨hupdate, h.corrects_succ, hlen.trans (Nat.le_succ k), h.disc_ne_zero,
        fun Λ l hΛ => h.shortest Λ l hΛ.of_succ⟩

end BmInvariant

end Turn

theorem bmInvariant_bmRun (syn : Bytes) (t : Nat) : BmInvariant φ syn t (bmRun syn t) := by
  induction t with
  | zero => exact bmInvariant_start φ syn
  | succ t ih =>
    rw [bmRun, List.range_succ, List.foldl_concat]
    exact ih.step

/-- Of syndromes at least twice as many as the errors the loop finds the locator polynomial and the number of errors. -/
theorem BmInvariant.eq_locatorPoly {syn : Bytes} {t : Nat} {st : BmState} {E : Finset Nat} {x y : Nat → K}
    (h : BmInvariant φ syn t st) (hE : Locatable E x y) (hsyn : φ.poly syn = syndromePoly E x y t) (ht : 2 * E.card ≤ t) :
    φ.poly st.lam = locatorPoly E x ∧ st.len = E.card := by
  have hgen := h.generates
  rw [hsyn] at hgen
  have hle : st.len ≤ E.card := h.shortest (locatorPoly E x) E.card (hsyn ▸ generates_locatorPoly t)
  have heq := hE.eq_locatorPoly hgen hle ht
  refine ⟨heq, le_antisymm hle ?_⟩
  rw [← hE.natDegree_locatorPoly, ← heq]
  exact hgen.degree

end Sys2Proof.Machine
end

section
/-! The syndromes of a block, and those of the errors it was received with (43_blockfec.md rules R144, R146, R148, R166). -/

namespace Sys2Proof.Machine

open Polynomial

/-! ### The powers of `RS_GEN` -/

theorem ValidConfig.gfPrimitive_rsGen (c : ValidConfig) : gfPrimitive c.val.rsGen = true := by
  obtain ⟨-, hne, hone, -⟩ := (configValid_iff c.val).1 c.property
  exact (gfPrimitive_iff _).2 ⟨hne, hone⟩

theorem ValidConfig.rsGen_ne_zero (c : ValidConfig) : c.val.rsGen ≠ 0#8 :=
  ((gfPrimitive_iff _).1 c.gfPrimitive_rsGen).1

/-- R143: the exponent may be reduced modulo 255. -/
theorem alphaPow_eq_gfPow (c : ValidConfig) (e : Nat) : alphaPow c.val e = gfPow c.val.rsGen e :=
  gfPow_mod c.rsGen_ne_zero e

theorem alphaPow_ne_zero (c : ValidConfig) (e : Nat) : alphaPow c.val e ≠ 0#8 :=
  gfPow_ne_zero c.rsGen_ne_zero _

theorem locator_ne_zero (c : ValidConfig) (n i : Nat) : locator c.val n i ≠ 0#8 :=
  alphaPow_ne_zero c _

/-- R144: the positions of a block of at most 255 bytes have different locators. -/
theorem locator_injOn (c : ValidConfig) {n : Nat} (hn : n ≤ 255) : Set.InjOn (locator c.val n) {i | i < n} := by
  intro i hi l hl h
  simp only [Set.mem_ofPred_eq] at hi hl
  have hexp : n - 1 - i = n - 1 - l := by
    refine gfPow_injOn c.gfPrimitive_rsGen (show n - 1 - i < 255 by omega) (show n - 1 - l < 255 by omega) ?_
    rw [← alphaPow_eq_gfPow, ← alphaPow_eq_gfPow]
    exact h
  omega

/-! ### The polynomial of a block -/

theorem isCodeword_iff {c : Config} {r : Bytes} {t : Nat} : isCodeword c r t = true ↔ ∀ j < t, syndrome c r j = 0#8 := by
  simp [isCodeword, syndromes]

/-- Beyond the redundancy the missing syndromes read as 0. -/
theorem getD_syndromes (c : Config) (r : Bytes) (t j : Nat) :
    (syndromes c r t).getD j 0#8 = if j < t then syndrome c r j else 0#8 := by
  rw [syndromes, List.getD_eq_getElem?_getD, List.getElem?_map]
  split
  case isTrue hj => rw [List.getElem?_range hj, Option.map_some, Option.getD_some]
  case isFalse hj => rw [List.getElem?_eq_none (by simpa using hj), Option.map_none, Option.getD_none]

section Field

variable {K : Type} [Field K] (φ : ByteField K)

namespace ByteField

/-- `R(x)` (R144): byte 0 is the coefficient of the highest power. -/
noncomputable def blockPoly (r : Bytes) : K[X] := φ.poly r.reverse

theorem blockPoly_cons (a : Byte) (r : Bytes) : φ.blockPoly (a :: r) = C (φ.val a) * X ^ r.length + φ.blockPoly r := by
  rw [blockPoly, List.reverse_cons, poly_append, poly_singleton, List.length_reverse, blockPoly]
  ring

theorem blockPoly_append (r r' : Bytes) :
    φ.blockPoly (r ++ r') = φ.blockPoly r * X ^ r'.length + φ.blockPoly r' := by
  rw [blockPoly, List.reverse_append, poly_append, List.length_reverse, blockPoly, blockPoly]
  ring

theorem val_hornerHigh (x : Byte) (r : Bytes) : φ.val (hornerHigh x r) = (φ.blockPoly r).eval (φ.val x) := by
  induction r using List.reverseRecOn with
  | nil => simp [hornerHigh, blockPoly]
  | append_singleton r b ih =>
    have hconcat : hornerHigh x (r ++ [b]) = gfMul (hornerHigh x r) x ^^^ b := List.foldl_concat ..
    rw [hconcat, φ.val_xor, φ.val_gfMul, ih, blockPoly_append]
    simp [blockPoly]

theorem val_alphaPow (c : ValidConfig) (e : Nat) : φ.val (alphaPow c.val e) = φ.val c.val.rsGen ^ e := by
  rw [alphaPow_eq_gfPow, φ.val_gfPow]

theorem blockPoly_eq_sum (r : Bytes) :
    φ.blockPoly r = ∑ i ∈ Finset.range r.length, C (φ.val (r.getD i 0#8)) * X ^ (r.length - 1 - i) := by
  induction r with
  | nil => simp [blockPoly]
  | cons a r ih =>
    rw [blockPoly_cons, ih, List.length_cons, Finset.sum_range_succ', add_comm]
    simp [Nat.sub_sub, Nat.add_comm]

end ByteField

/-- R148: a syndrome is the sum of the bytes, each times a power of its locator. -/
theorem val_syndrome (c : ValidConfig) (r : Bytes) (j : Nat) :
    φ.val (syndrome c.val r j) = ∑ i ∈ Finset.range r.length,
      φ.val (r.getD i 0#8) * φ.val (locator c.val r.length i) ^ (c.val.rsFcr + j) := by
  rw [syndrome, φ.val_hornerHigh, φ.blockPoly_eq_sum, eval_finsetSum]
  refine Finset.sum_congr rfl fun i _ => ?_
  rw [locator, φ.val_alphaPow, φ.val_alphaPow, eval_mul, eval_C, eval_pow, eval_X, ← pow_mul, ← pow_mul, mul_comm (_ + _)]

end Field

/-! ### Errors -/

/-- The error at position `i` of the block `r` received for `w`. -/
def errorAt (r w : Bytes) (i : Nat) : Byte := r.getD i 0#8 ^^^ w.getD i 0#8

/-- R148: the syndromes of a block are those of its errors. -/
theorem val_syndrome_of_codeword {K : Type} [Field K] (φ : ByteField K) (c : ValidConfig) {r w : Bytes} {t j : Nat}
    (hw : isCodeword c.val w t = true) (hlen : r.length = w.length) (hj : j < t) :
    φ.val (syndrome c.val r j) = ∑ i ∈ Finset.range r.length,
      φ.val (errorAt r w i) * φ.val (locator c.val r.length i) ^ (c.val.rsFcr + j) := by
  have hzero : φ.val (syndrome c.val w j) = 0 := by rw [isCodeword_iff.1 hw j hj, φ.val_zero]
  calc φ.val (syndrome c.val r j)
    _ = φ.val (syndrome c.val r j) + φ.val (syndrome c.val w j) := by rw [hzero, add_zero]
    _ = _ := by
      rw [val_syndrome, val_syndrome, ← hlen, ← Finset.sum_add_distrib]
      simp only [errorAt, φ.val_xor, add_mul]

@[simp] theorem withError_length (w : Bytes) (i : Nat) (e : Byte) : (withError w i e).length = w.length :=
  List.length_set

@[simp] theorem errorAt_self (w : Bytes) (i : Nat) : errorAt w w i = 0#8 :=
  BitVec.xor_self

theorem errorAt_withError {r : Bytes} {i : Nat} (hi : i < r.length) (w : Bytes) (e : Byte) (l : Nat) :
    errorAt (withError r i e) w l = errorAt r w l ^^^ if i = l then e else 0#8 := by
  unfold errorAt withError
  by_cases hl : i = l
  · subst hl
    rw [if_pos rfl, List.getD_eq_getElem _ _ (by simpa using hi), List.getElem_set_self]
    ac_rfl
  · rw [if_neg hl, List.getD_eq_getElem?_getD, List.getElem?_set_ne hl, ← List.getD_eq_getElem?_getD, BitVec.xor_zero]

theorem syndrome_withError (c : ValidConfig) {w : Bytes} {t i j : Nat} (e : Byte) (hw : isCodeword c.val w t = true)
    (hi : i < w.length) (hj : j < t) :
    syndrome c.val (withError w i e) j = gfMul e (gfPow (locator c.val w.length i) (c.val.rsFcr + j)) := by
  obtain ⟨K, _, ⟨φ⟩⟩ := exists_byteField
  refine φ.val_injective ?_
  rw [val_syndrome_of_codeword φ c hw (withError_length w i e) hj, withError_length, φ.val_gfMul, φ.val_gfPow,
    Finset.sum_eq_single_of_mem i (Finset.mem_range.2 hi), errorAt_withError hi, if_pos rfl, errorAt_self,
    BitVec.zero_xor]
  intro l _ hne
  rw [errorAt_withError hi, if_neg hne.symm, errorAt_self, BitVec.xor_zero, φ.val_zero, zero_mul]

/-- With `RS_FCR = 0` the first two syndromes of an error are its value and its value times its locator. -/
theorem syndrome_withError_of_rsFcr_zero (c : ValidConfig) {w : Bytes} {t i : Nat} (e : Byte) (hfcr : c.val.rsFcr = 0)
    (ht : 2 ≤ t) (hw : isCodeword c.val w t = true) (hi : i < w.length) :
    syndrome c.val (withError w i e) 0 = e ∧
      syndrome c.val (withError w i e) 1 = gfMul e (alphaPow c.val (w.length - 1 - i)) := by
  constructor
  · rw [syndrome_withError c e hw hi (by omega), hfcr]
    exact gfMul_one_right e
  · rw [syndrome_withError c e hw hi (by omega), hfcr]
    exact congrArg (gfMul e) (gfMul_one_left _)

/-- Settles O43. -/
theorem singleErrorSyndromes : Obligations.SingleErrorSyndromes := by
  refine ⟨fun c w t i j e hw hi hj => syndrome_withError c e hw hi hj,
    fun c w t i e hfcr ht hw hi => syndrome_withError_of_rsFcr_zero c e hfcr ht hw hi,
    fun c w hfcr hgen hw hlen => ?_⟩
  obtain ⟨h0, h1⟩ := syndrome_withError_of_rsFcr_zero c (i := 5) 0x10#8 hfcr le_rfl hw (by omega)
  have hpow : gfMul 0x10#8 (alphaPow c.val (15 - 1 - 5)) = 0x87#8 := by
    rw [alphaPow, hgen]
    decide +kernel
  rw [hlen, hpow] at h1
  exact congrArg₂ (fun a b => [a, b]) h0 h1

end Sys2Proof.Machine
end

section
/-! RS_ENCODE gives codewords: the division by the generator polynomial keeps the value at its roots (43_blockfec.md rules R145,
R146, R150). -/

namespace Sys2Proof.Machine

open Polynomial

/-! ### The generator polynomial -/

theorem polyScale_length (c : Byte) (p : Bytes) : (polyScale c p).length = p.length :=
  List.length_map _

theorem polyAdd_length (p q : Bytes) : (polyAdd p q).length = max p.length q.length := by
  induction p, q using polyAdd.induct with
  | case1 q => simp [polyAdd]
  | case2 p hp =>
    cases p with
    | nil => exact absurd rfl hp
    | cons a p => simp [polyAdd]
  | case3 a p b q ih => simp [polyAdd, ih]

theorem polyAdd_concat {p q : Bytes} (h : p.length = q.length) (a : Byte) :
    polyAdd p (q ++ [a]) = polyAdd p q ++ [a] := by
  induction p, q using polyAdd.induct with
  | case1 q => simp [polyAdd]
  | case2 p hp => exact absurd (List.length_eq_zero_iff.1 (by simpa using h)) hp
  | case3 a p b q ih => simp [polyAdd, ih (by simpa using h)]

theorem polyMul_one_left {p : Bytes} (hp : p ≠ []) : polyMul [1#8] p = p := by
  cases p with
  | nil => exact absurd rfl hp
  | cons a p =>
    have hscale : polyScale 1#8 (a :: p) = a :: p :=
      (List.map_congr_left fun b _ => gfMul_one_left b).trans (List.map_id _)
    have hnil : polyAdd p [] = p := by cases p <;> rfl
    rw [polyMul, hscale, polyMul, polyAdd, hnil]
    exact congrArg (· :: p) BitVec.xor_zero

theorem genPoly_succ (c : Config) (t : Nat) :
    genPoly c (t + 1) = polyMul [alphaPow c (c.rsFcr + t), 1#8] (genPoly c t) := by
  rw [genPoly, List.range_succ, List.foldl_concat, ← genPoly]

/-- R145: `g_t` is monic of degree `t`. -/
theorem exists_genPoly_eq_concat (c : Config) (t : Nat) : ∃ g, g.length = t ∧ genPoly c t = g ++ [1#8] := by
  induction t with
  | zero => exact ⟨[], rfl, rfl⟩
  | succ t ih =>
    obtain ⟨g, hg, hgen⟩ := ih
    refine ⟨polyAdd (polyScale (alphaPow c (c.rsFcr + t)) (g ++ [1#8])) (0#8 :: g), ?_, ?_⟩
    · simp [polyAdd_length, polyScale_length, hg]
    · rw [genPoly_succ, hgen, polyMul, polyMul_one_left (by simp),
        ← polyAdd_concat (by simp [polyScale_length]), List.cons_append]
      rfl

theorem exists_genPolyHigh_eq_cons (c : Config) (t : Nat) : ∃ g, g.length = t ∧ genPolyHigh c t = 1#8 :: g := by
  obtain ⟨g, hg, hgen⟩ := exists_genPoly_eq_concat c t
  exact ⟨g.reverse, by rw [List.length_reverse, hg], by rw [genPolyHigh, hgen, List.reverse_concat]⟩

/-! ### RS_ENCODE -/

section Encoder

variable {K : Type} [Field K] (φ : ByteField K)

theorem poly_genPoly (c : Config) (t : Nat) :
    φ.poly (genPoly c t) = ∏ j ∈ Finset.range t, (C (φ.val (alphaPow c (c.rsFcr + j))) + X) := by
  induction t with
  | zero => simp [genPoly]
  | succ t ih =>
    rw [genPoly_succ, φ.poly_polyMul, ih, Finset.prod_range_succ, φ.poly_cons, φ.poly_singleton, φ.val_one, C_1, mul_one,
      mul_comm]

/-- R145: the roots of `g_t`. -/
theorem hornerHigh_genPolyHigh (c : Config) {t j : Nat} (hj : j < t) :
    hornerHigh (alphaPow c (c.rsFcr + j)) (genPolyHigh c t) = 0#8 := by
  obtain ⟨K, _, ⟨φ⟩⟩ := exists_byteField
  rw [← φ.val_eq_zero_iff, φ.val_hornerHigh, genPolyHigh, ByteField.blockPoly, List.reverse_reverse, poly_genPoly, eval_prod]
  refine Finset.prod_eq_zero (Finset.mem_range.2 hj) ?_
  rw [eval_add, eval_C, eval_X, φ.add_self]

/-- Aligned at the front, the shorter list stands for the higher powers. -/
theorem blockPoly_polyAdd {p w : Bytes} (h : p.length ≤ w.length) :
    φ.blockPoly (polyAdd p w) = φ.blockPoly p * X ^ (w.length - p.length) + φ.blockPoly w := by
  induction p, w using polyAdd.induct with
  | case1 q => simp [polyAdd, ByteField.blockPoly]
  | case2 p hp => exact absurd (List.length_eq_zero_iff.1 (by simpa using h)) hp
  | case3 a p b q ih =>
    have hle : p.length ≤ q.length := by simpa using h
    have hpow : (X : K[X]) ^ q.length = X ^ p.length * X ^ (q.length - p.length) := by
      rw [← pow_add, Nat.add_sub_of_le hle]
    rw [polyAdd, φ.blockPoly_cons, φ.blockPoly_cons, φ.blockPoly_cons, ih hle, polyAdd_length, max_eq_right hle,
      φ.val_xor, C_add, List.length_cons, List.length_cons, Nat.add_sub_add_right, hpow]
    ring

theorem blockPoly_polyScale (b : Byte) (p : Bytes) : φ.blockPoly (polyScale b p) = C (φ.val b) * φ.blockPoly p := by
  rw [ByteField.blockPoly, ByteField.blockPoly, ← φ.poly_polyScale, polyScale, polyScale, List.map_reverse]

@[simp] theorem blockPoly_replicate_zero (n : Nat) : φ.blockPoly (List.replicate n 0#8) = 0 := by
  induction n with
  | zero => simp [ByteField.blockPoly]
  | succ n ih => simp [List.replicate_succ, φ.blockPoly_cons, ih]

end Encoder

/-- Taking a multiple of the generator off changes no value at a root of it. -/
theorem hornerHigh_polyAdd_polyScale {x : Byte} {g : Bytes} (hroot : hornerHigh x (1#8 :: g) = 0#8) (b : Byte) {w : Bytes}
    (hlen : g.length ≤ w.length) : hornerHigh x (polyAdd (polyScale b g) w) = hornerHigh x (b :: w) := by
  obtain ⟨K, _, ⟨φ⟩⟩ := exists_byteField
  rw [← φ.val_eq_zero_iff, φ.val_hornerHigh, φ.blockPoly_cons] at hroot
  refine φ.val_injective ?_
  rw [φ.val_hornerHigh, φ.val_hornerHigh, blockPoly_polyAdd φ (by rwa [polyScale_length]), blockPoly_polyScale,
    φ.blockPoly_cons, polyScale_length]
  have hpow : φ.val x ^ w.length = φ.val x ^ g.length * φ.val x ^ (w.length - g.length) := by
    rw [← pow_add, Nat.add_sub_of_le hlen]
  simp only [eval_add, eval_mul, eval_C, eval_pow, eval_X, φ.val_one, one_mul] at hroot ⊢
  rw [hpow]
  linear_combination φ.val b * φ.val x ^ (w.length - g.length) * hroot
    - φ.val b * φ.val x ^ (w.length - g.length) * φ.val x ^ g.length * φ.two_eq_zero

/-- R150: the division takes the message bytes away and keeps the value at every root of the generator. -/
theorem rsDivide_spec {g : Bytes} (k : Nat) (w : Bytes) (hlen : k + g.length ≤ w.length) :
    (rsDivide g k w).length + k = w.length ∧
    ∀ x, hornerHigh x (1#8 :: g) = 0#8 → hornerHigh x (rsDivide g k w) = hornerHigh x w := by
  induction k generalizing w with
  | zero => exact ⟨rfl, fun _ _ => rfl⟩
  | succ k ih =>
    cases w with
    | nil => simp at hlen
    | cons b w =>
      rw [List.length_cons] at hlen
      have hsum : (polyAdd (polyScale b g) w).length = w.length := by
        rw [polyAdd_length, polyScale_length]
        omega
      obtain ⟨hlength, hvalue⟩ := ih (polyAdd (polyScale b g) w) (by omega)
      rw [rsDivide]
      refine ⟨by rw [List.length_cons]; omega, fun x hx => ?_⟩
      rw [hvalue x hx, hornerHigh_polyAdd_polyScale hx b (by omega)]

/-- R150: the message, and behind it the remainder of `M(x) x^t`. -/
theorem exists_rsEncode_eq_append (c : Config) (m : Bytes) (t : Nat) :
    ∃ p, p.length = t ∧ rsEncode c m t = m ++ p ∧
      ∀ j < t, hornerHigh (alphaPow c (c.rsFcr + j)) p = hornerHigh (alphaPow c (c.rsFcr + j)) (m ++ List.replicate t 0#8) := by
  obtain ⟨g, hg, hgen⟩ := exists_genPolyHigh_eq_cons c t
  obtain ⟨hlength, hvalue⟩ := rsDivide_spec (g := g) m.length (m ++ List.replicate t 0#8) (by simp [hg])
  refine ⟨rsDivide g m.length (m ++ List.replicate t 0#8), ?_, by rw [rsEncode, hgen, List.tail_cons], fun j hj => ?_⟩
  · rw [List.length_append, List.length_replicate] at hlength
    omega
  · exact hvalue _ (hgen ▸ hornerHigh_genPolyHigh c hj)

theorem isCodeword_rsEncode (c : Config) (m : Bytes) (t : Nat) : isCodeword c (rsEncode c m t) t = true := by
  obtain ⟨p, hp, henc, hvalue⟩ := exists_rsEncode_eq_append c m t
  obtain ⟨K, _, ⟨φ⟩⟩ := exists_byteField
  refine isCodeword_iff.2 fun j hj => ?_
  have h := congrArg φ.val (hvalue j hj)
  rw [← φ.val_eq_zero_iff, syndrome, henc, φ.val_hornerHigh, φ.blockPoly_append, hp]
  rw [φ.val_hornerHigh, φ.val_hornerHigh, φ.blockPoly_append, blockPoly_replicate_zero, add_zero, List.length_replicate] at h
  rw [eval_add, h, φ.add_self]

theorem rsEncode_length (c : Config) (m : Bytes) (t : Nat) : (rsEncode c m t).length = m.length + t := by
  obtain ⟨p, hp, henc, -⟩ := exists_rsEncode_eq_append c m t
  rw [henc, List.length_append, hp]

theorem take_rsEncode (c : Config) (m : Bytes) (t : Nat) : (rsEncode c m t).take m.length = m :=
  List.take_left

/-- Settles O44: behind the message stands a remainder with the message's own values at the roots of `g_t`. -/
theorem encodedMessageIsACodeword : Obligations.EncodedMessageIsACodeword := fun c m t =>
  ⟨take_rsEncode c.val m t, rsEncode_length c.val m t, isCodeword_rsEncode c.val m t⟩

end Sys2Proof.Machine
end

section
/-! What the decoder answers is checked at the end, so it is a codeword within the radius (43_blockfec.md rules R151, R152, R154). -/

namespace Sys2Proof.Machine

/-! ### Soundness -/

theorem blockDist_self (r : Bytes) : blockDist r r = 0 := by
  induction r with
  | nil => rfl
  | cons a r ih => simp [blockDist]

theorem forneyCorrect_length {c : Config} {lam omega : Bytes} {n : Nat} {is : List Nat} {r r' : Bytes}
    (h : forneyCorrect c lam omega n is r = some r') : r'.length = r.length := by
  induction is generalizing r with
  | nil => cases h; rfl
  | cons i is ih =>
    rw [forneyCorrect] at h
    split at h
    · cases h
    · exact (ih h).trans List.length_set

/-- What passes the last two tests of R152. -/
theorem acceptCorrection_eq_some_iff {c : Config} {r r' w : Bytes} {t d : Nat} :
    acceptCorrection c r t r' = some (w, d) ↔
      isCodeword c r' t = true ∧ blockDist r r' ≤ radius t ∧ r' = w ∧ blockDist r r' = d := by
  unfold acceptCorrection
  split
  case isTrue h => simp [h]
  case isFalse h => simpa using fun hc hd => absurd ⟨hc, hd⟩ h

/-- Everything the decoder can answer: the block itself, or a correction that passed the tests. -/
theorem bdDecode_eq_some {c : Config} {r w : Bytes} {t d : Nat} (h : bdDecode c r t = some (w, d)) :
    (isCodeword c r t = true ∧ w = r ∧ d = 0) ∨
    (w.length = r.length ∧ acceptCorrection c r t w = some (w, d)) := by
  unfold bdDecode at h
  split at h
  case isTrue hcode => cases h; exact .inl ⟨hcode, rfl, rfl⟩
  case isFalse =>
    unfold correctBlock at h
    simp only at h
    split at h
    · cases h
    · split at h
      · cases h
      · split at h
        · cases h
        · next r' hr' =>
          obtain ⟨-, -, rfl, -⟩ := acceptCorrection_eq_some_iff.1 h
          exact .inr ⟨forneyCorrect_length hr', h⟩

/-- Settles O45: the last two tests of R152. -/
theorem decoderIsSound : Obligations.DecoderIsSound := by
  intro c r w t d h
  rcases bdDecode_eq_some h with ⟨hcode, rfl, rfl⟩ | ⟨hlen, h⟩
  · exact ⟨hcode, rfl, (blockDist_self w).symm, Nat.zero_le _⟩
  · obtain ⟨hcode, hdist, -, rfl⟩ := acceptCorrection_eq_some_iff.1 h
    exact ⟨hcode, hlen, rfl, hdist⟩

end Sys2Proof.Machine
end

section
/-! The decoder within the radius (43_blockfec.md rules R149, R151, R152, R162): Berlekamp-Massey finds the error locator
polynomial, the Chien search its positions and Forney's formula its values. -/

namespace Sys2Proof.Machine

open Polynomial

/-! ### The errors of a block -/

/-- The positions where `r` and `w` differ (R149). -/
def errorPositions (r w : Bytes) : Finset Nat := (Finset.range r.length).filter fun i => errorAt r w i ≠ 0#8

theorem errorAt_eq_zero_iff {r w : Bytes} {i : Nat} : errorAt r w i = 0#8 ↔ r.getD i 0#8 = w.getD i 0#8 :=
  BitVec.xor_eq_zero_iff

theorem mem_errorPositions {r w : Bytes} {i : Nat} : i ∈ errorPositions r w ↔ i < r.length ∧ errorAt r w i ≠ 0#8 := by
  simp [errorPositions]

theorem card_errorPositions {r w : Bytes} (hlen : r.length = w.length) : (errorPositions r w).card = blockDist r w := by
  rw [errorPositions, Finset.card_filter]
  induction r generalizing w with
  | nil => rfl
  | cons a r ih =>
    cases w with
    | nil => cases hlen
    | cons b w =>
      have hcons : blockDist (a :: r) (b :: w) = (if a = b then 0 else 1) + blockDist r w := by simp [blockDist]
      rw [hcons, List.length_cons, Finset.sum_range_succ', ← ih (by simpa using hlen), add_comm]
      simp [errorAt, ite_not]

/-- Beyond its end a block has no errors. -/
theorem mem_errorPositions_of_ne_zero {r w : Bytes} {i : Nat} (hlen : r.length = w.length) (h : errorAt r w i ≠ 0#8) :
    i ∈ errorPositions r w := by
  refine mem_errorPositions.2 ⟨?_, h⟩
  by_contra hi
  exact h (errorAt_eq_zero_iff.2 (by rw [List.getD_eq_default _ _ (by omega), List.getD_eq_default _ _ (by omega)]))

/-- A block without errors is the codeword. -/
theorem eq_of_forall_errorAt {r w : Bytes} (hlen : r.length = w.length) (h : ∀ i, errorAt r w i = 0#8) : r = w := by
  refine List.ext_getElem hlen fun i hi hi' => ?_
  simpa [hi, hi'] using errorAt_eq_zero_iff.1 (h i)

/-- Forney's loop gives back `w` if it is told the error at every position where the block differs from `w`. -/
theorem forneyCorrect_eq_some {c : Config} {lam omega : Bytes} {n : Nat} {is : List Nat} {r w : Bytes}
    (hlen : r.length = w.length) (hnodup : is.Nodup) (hmem : ∀ i, errorAt r w i ≠ 0#8 → i ∈ is)
    (hbound : ∀ i ∈ is, i < r.length)
    (hvalue : ∀ i ∈ is, forneyValue c lam omega n i = some (errorAt r w i)) :
    forneyCorrect c lam omega n is r = some w := by
  induction is generalizing r with
  | nil =>
    have heq : r = w := eq_of_forall_errorAt hlen fun i => not_not.1 fun hne => List.not_mem_nil (hmem i hne)
    rw [forneyCorrect, heq]
  | cons i is ih =>
    obtain ⟨hi, hnodup⟩ := List.nodup_cons.1 hnodup
    have hset (l : Nat) : errorAt (withError r i (errorAt r w i)) w l = if i = l then 0#8 else errorAt r w l := by
      rw [errorAt_withError (hbound i List.mem_cons_self)]
      split
      case isTrue hil => rw [hil, BitVec.xor_self]
      case isFalse => exact BitVec.xor_zero
    rw [forneyCorrect, hvalue i List.mem_cons_self]
    refine ih (r := withError r i (errorAt r w i)) ?_ hnodup ?_ ?_ ?_
    · rw [withError_length, hlen]
    · intro l hl
      rw [hset] at hl
      split at hl
      · exact absurd rfl hl
      · next hne => exact (List.mem_cons.1 (hmem l hl)).resolve_left (Ne.symm hne)
    · exact fun l hl => (withError_length r i _).symm ▸ hbound l (List.mem_cons_of_mem i hl)
    · intro l hl
      rw [hset, if_neg (fun hil : i = l => hi (hil ▸ hl)), hvalue l (List.mem_cons_of_mem i hl)]

/-! ### The reference algorithm within the radius -/

/-- `Λ` as Berlekamp-Massey finds it (R152). -/
abbrev foundLocator (c : Config) (r : Bytes) (t : Nat) : Bytes := (bmRun (syndromes c r t) t).lam

/-- `Ω`, the product of the syndromes and `Λ` modulo `x^t` (R152). -/
abbrev foundEvaluator (c : Config) (r : Bytes) (t : Nat) : Bytes :=
  (polyMul (syndromes c r t) (foundLocator c r t)).take t

/-- A block received for a codeword of at most 255 bytes, within the radius (R149, R151). -/
structure Received (c : ValidConfig) (t : Nat) (r w : Bytes) : Prop where
  short : w.length ≤ 255
  codeword : isCodeword c.val w t = true
  length : r.length = w.length
  near : blockDist r w ≤ t / 2

namespace Received

variable {K : Type} [Field K] (φ : ByteField K) {c : ValidConfig} {t i : Nat} {r w : Bytes}

/-- The locator `X_i` in the field (R144). -/
def locatorVal (φ : ByteField K) (c : ValidConfig) (n i : Nat) : K := φ.val (locator c.val n i)

/-- The weight `e_i X_i^RS_FCR` of an error in the syndromes (R148). -/
def weight (φ : ByteField K) (c : ValidConfig) (r w : Bytes) (i : Nat) : K :=
  φ.val (errorAt r w i) * locatorVal φ c r.length i ^ c.val.rsFcr

theorem locatorVal_ne_zero (c : ValidConfig) (n i : Nat) : locatorVal φ c n i ≠ 0 :=
  φ.val_eq_zero_iff.ne.2 (locator_ne_zero c n i)

theorem val_gfInv_locator (c : ValidConfig) (n i : Nat) :
    φ.val (gfInv (locator c.val n i)) = (locatorVal φ c n i)⁻¹ :=
  φ.val_gfInv _

variable (h : Received c t r w)

include h

theorem card_errorPositions_le : 2 * (errorPositions r w).card ≤ t := by
  have := h.near
  rw [card_errorPositions h.length]
  omega

theorem locatorVal_injOn : Set.InjOn (locatorVal φ c r.length) {i | i < r.length} :=
  fun _ hi _ hl hil => locator_injOn c (h.length ▸ h.short) hi hl (φ.val_injective hil)

theorem locatable : Locatable (errorPositions r w) (locatorVal φ c r.length) (weight φ c r w) where
  ne_zero i _ := locatorVal_ne_zero φ c _ i
  injOn _ hi _ hl := h.locatorVal_injOn φ (mem_errorPositions.1 hi).1 (mem_errorPositions.1 hl).1
  weight_ne_zero i hi :=
    mul_ne_zero (φ.val_eq_zero_iff.ne.2 (mem_errorPositions.1 hi).2) (pow_ne_zero _ (locatorVal_ne_zero φ c _ i))

/-- R148: the syndromes are those of the errors. -/
theorem poly_syndromes : φ.poly (syndromes c.val r t)
    = syndromePoly (errorPositions r w) (locatorVal φ c r.length) (weight φ c r w) t := by
  ext j
  rw [φ.coeff_poly, coeff_syndromePoly, getD_syndromes]
  split
  case isTrue hj =>
    rw [val_syndrome_of_codeword φ c h.codeword h.length hj, errorPositions, Finset.sum_filter]
    refine Finset.sum_congr rfl fun i _ => ?_
    split
    case isTrue => rw [weight, locatorVal, pow_add, mul_assoc]
    case isFalse hi => rw [not_not.1 hi, φ.val_zero, zero_mul]
  case isFalse => exact φ.val_zero

/-- R149: a codeword within the radius of the codeword `w` is `w`. -/
theorem eq_of_isCodeword (hr : isCodeword c.val r t = true) : r = w := by
  obtain ⟨K, _, ⟨φ⟩⟩ := exists_byteField
  have hpoly : syndromePoly (errorPositions r w) (locatorVal φ c r.length) (weight φ c r w) t = 0 := by
    rw [← h.poly_syndromes φ]
    ext j
    rw [φ.coeff_poly, getD_syndromes, coeff_zero, φ.val_eq_zero_iff]
    split
    case isTrue hj => exact isCodeword_iff.1 hr j hj
    case isFalse => rfl
  have hone : (1 : K[X]) = locatorPoly (errorPositions r w) (locatorVal φ c r.length) :=
    (h.locatable φ).eq_locatorPoly (L := 0) ⟨coeff_one_zero, natDegree_one.le, fun j _ _ => by rw [hpoly, zero_mul, coeff_zero]⟩
      (Nat.zero_le _) h.card_errorPositions_le
  have hcard := (h.locatable φ).natDegree_locatorPoly
  rw [← hone, natDegree_one, eq_comm, Finset.card_eq_zero] at hcard
  refine eq_of_forall_errorAt h.length fun i => not_not.1 fun hi => ?_
  have hmem := mem_errorPositions_of_ne_zero h.length hi
  rw [hcard] at hmem
  exact absurd hmem (Finset.notMem_empty i)

/-- R152: Berlekamp-Massey finds the error locator polynomial and the number of errors. -/
theorem bmRun_eq_locatorPoly :
    φ.poly (foundLocator c.val r t) = locatorPoly (errorPositions r w) (locatorVal φ c r.length) ∧
    (bmRun (syndromes c.val r t) t).len = (errorPositions r w).card :=
  (bmInvariant_bmRun φ (syndromes c.val r t) t).eq_locatorPoly φ (h.locatable φ) (h.poly_syndromes φ) h.card_errorPositions_le

theorem polyDeg_bmRun : polyDeg (foundLocator c.val r t) = (bmRun (syndromes c.val r t) t).len := by
  obtain ⟨K, _, ⟨φ⟩⟩ := exists_byteField
  obtain ⟨hlam, hlen⟩ := h.bmRun_eq_locatorPoly φ
  rw [φ.polyDeg_eq_natDegree, hlam, hlen, (h.locatable φ).natDegree_locatorPoly]

/-- R152: the Chien search finds the errors and nothing else. -/
theorem mem_chien_iff : i ∈ chien c.val (foundLocator c.val r t) r.length ↔ i ∈ errorPositions r w := by
  obtain ⟨K, _, ⟨φ⟩⟩ := exists_byteField
  obtain ⟨hlam, -⟩ := h.bmRun_eq_locatorPoly φ
  have hroot : polyEval (foundLocator c.val r t) (gfInv (locator c.val r.length i)) = 0#8 ↔
      ∃ l ∈ errorPositions r w, locatorVal φ c r.length l = locatorVal φ c r.length i := by
    rw [← φ.val_eq_zero_iff, φ.val_polyEval, hlam, val_gfInv_locator,
      eval_locatorPoly_inv_eq_zero_iff (locatorVal_ne_zero φ c _ i)]
  simp only [chien, List.mem_filter, List.mem_range, beq_iff_eq, hroot]
  constructor
  · rintro ⟨hi, l, hl, hil⟩
    exact h.locatorVal_injOn φ (mem_errorPositions.1 hl).1 hi hil ▸ hl
  · exact fun hi => ⟨(mem_errorPositions.1 hi).1, i, hi, rfl⟩

omit h in
theorem nodup_chien (c : Config) (lam : Bytes) (n : Nat) : (chien c lam n).Nodup :=
  List.nodup_range.filter _

theorem length_chien :
    (chien c.val (foundLocator c.val r t) r.length).length = (errorPositions r w).card := by
  rw [← List.toFinset_card_of_nodup (nodup_chien _ _ _)]
  congr 1
  ext i
  rw [List.mem_toFinset, h.mem_chien_iff]

/-- R152: the product of syndromes and locator polynomial modulo `x^t` is the error evaluator polynomial. -/
theorem poly_foundEvaluator : φ.poly (foundEvaluator c.val r t)
    = evaluatorPoly (errorPositions r w) (locatorVal φ c r.length) (weight φ c r w) := by
  obtain ⟨hlam, -⟩ := h.bmRun_eq_locatorPoly φ
  ext j
  rw [φ.coeff_poly]
  rcases Nat.lt_or_ge j t with hj | hj
  · have hget (p : Bytes) : (p.take t).getD j 0#8 = p.getD j 0#8 := by
      simp [List.getD_eq_getElem?_getD, hj]
    rw [hget, ← φ.coeff_poly, φ.poly_polyMul, hlam, h.poly_syndromes φ]
    exact coeff_eq_of_X_pow_dvd_sub (X_pow_dvd_key t) hj
  · have hcard := h.card_errorPositions_le
    rw [List.getD_eq_default _ _ ((List.length_take_le _ _).trans hj), φ.val_zero, coeff_evaluatorPoly_of_le (by omega)]

omit h in
/-- `X_i^(1 - RS_FCR)` takes the power of `RS_FCR` off the weight of an error. -/
theorem val_forneyFactor_mul (c : ValidConfig) (n i : Nat) :
    φ.val (forneyFactor c.val n i) * locatorVal φ c n i ^ c.val.rsFcr = locatorVal φ c n i := by
  have hfcr := ((configValid_iff c.val).1 c.property).1
  have hfactor : φ.val (forneyFactor c.val n i) = locatorVal φ c n i ^ (256 - c.val.rsFcr) := by
    rw [forneyFactor, locatorVal, locator, φ.val_alphaPow, φ.val_alphaPow, pow_mul]
  rw [hfactor, ← pow_add, Nat.sub_add_cancel (by omega), pow_succ _ 255, locatorVal,
    φ.val_pow_255 (locator_ne_zero c n i), one_mul]

/-- R152: Forney's formula gives the error at each position of an error. -/
theorem forneyValue_eq (hi : i ∈ errorPositions r w) :
    forneyValue c.val (foundLocator c.val r t) (foundEvaluator c.val r t) r.length i = some (errorAt r w i) := by
  obtain ⟨K, _, ⟨φ⟩⟩ := exists_byteField
  obtain ⟨hlam, -⟩ := h.bmRun_eq_locatorPoly φ
  have hx := locatorVal_ne_zero φ c r.length i
  have hothers := (h.locatable φ).eval_erase_ne_zero hi
  have hden := (h.locatable φ).eval_derivative_locatorPoly hi
  have hnum := (h.locatable φ).eval_evaluatorPoly hi
  generalize (locatorPoly ((errorPositions r w).erase i) (locatorVal φ c r.length)).eval
    (locatorVal φ c r.length i)⁻¹ = others at hothers hden hnum
  rw [φ.neg_eq, ← hlam, ← φ.poly_polyDeriv, ← val_gfInv_locator, ← φ.val_polyEval] at hden
  rw [← h.poly_foundEvaluator φ, ← val_gfInv_locator, ← φ.val_polyEval] at hnum
  have hden_ne : polyEval (polyDeriv (foundLocator c.val r t)) (gfInv (locator c.val r.length i)) ≠ 0#8 := by
    rw [← φ.val_eq_zero_iff.ne, hden]
    exact mul_ne_zero hx hothers
  refine (if_neg hden_ne).trans (congrArg some (φ.val_injective ?_))
  rw [φ.val_gfMul, φ.val_gfMul, φ.val_gfInv, hden, hnum, weight, ← div_eq_mul_inv, div_eq_iff (mul_ne_zero hx hothers)]
  linear_combination φ.val (errorAt r w i) * others * val_forneyFactor_mul φ c r.length i

theorem correctBlock_eq : correctBlock c.val r t = some (w, blockDist r w) := by
  obtain ⟨K, _, ⟨φ⟩⟩ := exists_byteField
  obtain ⟨-, hlen⟩ := h.bmRun_eq_locatorPoly φ
  have hforney := forneyCorrect_eq_some (c := c.val) (n := r.length) h.length (nodup_chien c.val _ r.length)
    (fun i hi => h.mem_chien_iff.2 (mem_errorPositions_of_ne_zero h.length hi))
    (fun i hi => (mem_errorPositions.1 (h.mem_chien_iff.1 hi)).1)
    (fun i hi => h.forneyValue_eq (h.mem_chien_iff.1 hi))
  have hradius : ¬(polyDeg (foundLocator c.val r t) ≠ (bmRun (syndromes c.val r t) t).len ∨
      radius t < (bmRun (syndromes c.val r t) t).len) := by
    have := h.card_errorPositions_le
    rw [h.polyDeg_bmRun, hlen, radius]
    omega
  unfold correctBlock
  simp only
  rw [if_neg hradius, if_neg (by rw [h.length_chien, hlen]; simp), hforney]
  exact acceptCorrection_eq_some_iff.2 ⟨h.codeword, h.near, rfl, rfl⟩

/-- R151 within the radius. -/
theorem bdDecode_eq : bdDecode c.val r t = some (w, blockDist r w) := by
  by_cases hr : isCodeword c.val r t = true
  · rw [bdDecode, if_pos hr, ← h.eq_of_isCodeword hr, blockDist_self]
  · rw [bdDecode, if_neg hr, h.correctBlock_eq]

end Received

/-- Settles O46: `Received.bdDecode_eq`, and RS_ENCODE gives codewords. -/
theorem errorsUpToTheRadiusAreCorrected : Obligations.ErrorsUpToTheRadiusAreCorrected := by
  refine ⟨fun c r w t hshort hcode hlen hnear => Received.bdDecode_eq ⟨hshort, hcode, hlen, hnear⟩,
    fun c m r t ht hlen hnear => ⟨rsEncode c.val m t, ?_, take_rsEncode c.val m t⟩⟩
  refine Received.bdDecode_eq ⟨?_, isCodeword_rsEncode c.val m t, ?_, hnear⟩
  · rw [rsEncode_length]
    omega
  · rw [hlen, rsEncode_length]

/-- Settles O47: completeness is `Received.bdDecode_eq`, and an answer where no codeword is near would not be sound. -/
theorem headerDecoderIsBoundedDistance : Obligations.HeaderDecoderIsBoundedDistance := by
  refine fun c r hr => ⟨fun w hw hcode hnear => Received.bdDecode_eq ⟨by omega, hcode, by omega, hnear⟩, fun hfar => ?_⟩
  rcases hdecode : bdDecode c.val r 2 with _ | ⟨w, d⟩
  · rfl
  · obtain ⟨hcode, hlen, rfl, hnear⟩ := decoderIsSound c.val r w 2 d hdecode
    exact absurd hnear (Nat.not_le.2 (hfar w (hlen.trans hr) hcode))

end Sys2Proof.Machine
end

section
/-! The four FEC commands, whole next state (43_blockfec.md rules R153, R156 to R161). -/

namespace Sys2Proof.Machine

variable {s : State} {r w : Bytes} {t d : Nat}

/-- The result byte of a check is 01 exactly where the decode succeeds (R153, R157, R159). -/
theorem checkByte_fecCheck (c : Config) (r : Bytes) (t : Nat) :
    checkByte (fecCheck c r t) = [if bdDecode c r t = none then 0x00#8 else 0x01#8] := by
  rcases h : bdDecode c r t with _ | ⟨w, d⟩ <;> simp [checkByte, fecCheck, h]

theorem finishDecode_of_some (h : bdDecode s.cfg.val r t = some (w, d)) :
    s.finishDecode r t = answer s 0x00#8 (w.take (r.length - t) ++ [BitVec.ofNat 8 d]) := by
  rw [State.finishDecode, h]
  rfl

/-- UNCORRECTABLE_BLOCK is no command error: it writes `LAST_STS` alone (R156, R226, R230). -/
theorem finishDecode_of_none (h : bdDecode s.cfg.val r t = none) : s.finishDecode r t = answer s 0xA0#8 [] := by
  rw [State.finishDecode, h]
  exact raise_of_not_commandError rfl s

/-- A command of format OH goes on with a block of 15 bytes (R77). -/
theorem withOperand_operandOH (hlen : r.length = 15) (hmax : r.length ≤ s.cfg.val.maxOperand) (k : Bytes → State) :
    withOperand s (operandOH s.cfg.val r) k = .next (k r) := by
  have hop : operandOH s.cfg.val r = .ok r := checkLen_map_eq_ok_iff.2 ⟨⟨hmax, hlen.ge, hlen.le⟩, rfl⟩
  rw [hop, withOperand_ok]

/-- A command of format OPB goes on with a block of 16 to 255 bytes (R78). -/
theorem withOperand_operandOPB (hlo : 16 ≤ r.length) (hhi : r.length ≤ 255) (hmax : r.length ≤ s.cfg.val.maxOperand)
    (k : Bytes → State) : withOperand s (operandOPB s.cfg.val r) k = .next (k r) := by
  have hop : operandOPB s.cfg.val r = .ok r := checkLen_map_eq_ok_iff.2 ⟨⟨hmax, hlo, hhi⟩, rfl⟩
  rw [hop, withOperand_ok]

theorem exec_fecHchk_of_length (hlen : r.length = 15) (hmax : r.length ≤ s.cfg.val.maxOperand) :
    exec (.fecHchk r) s = .next (answer s 0x00#8 (checkByte (fecCheck s.cfg.val r 2))) :=
  withOperand_operandOH hlen hmax fun r => s.respond .ok (checkByte (fecCheck s.cfg.val r 2))

theorem exec_fecHdec_of_length (hlen : r.length = 15) (hmax : r.length ≤ s.cfg.val.maxOperand) :
    exec (.fecHdec r) s = .next (s.finishDecode r 2) :=
  withOperand_operandOH hlen hmax fun r => s.finishDecode r 2

theorem exec_fecPchk_of_length (hlo : 16 ≤ r.length) (hhi : r.length ≤ 255) (hmax : r.length ≤ s.cfg.val.maxOperand) :
    exec (.fecPchk r) s = .next (answer s 0x00#8 (checkByte (fecCheck s.cfg.val r 16))) :=
  withOperand_operandOPB hlo hhi hmax fun r => s.respond .ok (checkByte (fecCheck s.cfg.val r 16))

theorem exec_fecPdec_of_length (hlo : 16 ≤ r.length) (hhi : r.length ≤ 255) (hmax : r.length ≤ s.cfg.val.maxOperand) :
    exec (.fecPdec r) s = .next (s.finishDecode r 16) :=
  withOperand_operandOPB hlo hhi hmax fun r => s.finishDecode r 16

/-- Settles O48: each command goes on with its block, and `bdDecode` decides how it ends. -/
theorem fecCompletes : Obligations.FecCompletes := by
  refine ⟨fun s r hlen hmax => ⟨?_, fun w d hdec => ?_, fun hdec => ?_⟩,
    fun s r hlo hhi hmax => ⟨?_, fun w d hdec => ?_, fun hdec => ?_⟩⟩
  · rw [exec_fecHchk_of_length hlen hmax, checkByte_fecCheck]
  · rw [exec_fecHdec_of_length hlen hmax, finishDecode_of_some hdec, hlen]
  · rw [exec_fecHdec_of_length hlen hmax, finishDecode_of_none hdec]
  · rw [exec_fecPchk_of_length hlo hhi hmax, checkByte_fecCheck]
  · rw [exec_fecPdec_of_length hlo hhi hmax, finishDecode_of_some hdec]
  · rw [exec_fecPdec_of_length hlo hhi hmax, finishDecode_of_none hdec]

end Sys2Proof.Machine
end

section
/-! ChecksumRecovery and the CRC-16 (44_checksum.md rules R171 to R183): RECOVER joins nibbles that ENCODE_CHECKSUM splits off,
and CRC16 is the xor-out of a register that takes the bytes in one after the other. -/

namespace Sys2Proof.Machine

variable {s : State} {c : Config}

/-! ### The nibbles of a checksum -/

/-- The four nibbles that ENCODE_CHECKSUM encodes are, high to low, the whole checksum (R173). -/
theorem append_nibbles (v : BitVec 16) :
    v.extractLsb' 12 4 ++ v.extractLsb' 8 4 ++ v.extractLsb' 4 4 ++ v.extractLsb' 0 4 = v := by
  rw [BitVec.extractLsb'_append_extractLsb'_eq_extractLsb' (by omega),
    BitVec.extractLsb'_append_extractLsb'_eq_extractLsb' (by omega),
    BitVec.extractLsb'_append_extractLsb'_eq_extractLsb' (by omega), BitVec.extractLsb'_eq_self]

theorem recover_eq_append (c : Config) (e0 e1 e2 e3 : Byte) :
    recover c [e0, e1, e2, e3] = nibbleAt c.nibbleTable e0 ++ nibbleAt c.nibbleTable e1
      ++ nibbleAt c.nibbleTable e2 ++ nibbleAt c.nibbleTable e3 := rfl

/-- Four bytes that the table reads as the nibbles of `v` are recovered as `v` (R174), whether or not they are its encoding. -/
theorem recover_eq_of_nibbleAt {v : BitVec 16} {e0 e1 e2 e3 : Byte}
    (h0 : nibbleAt c.nibbleTable e0 = v.extractLsb' 12 4) (h1 : nibbleAt c.nibbleTable e1 = v.extractLsb' 8 4)
    (h2 : nibbleAt c.nibbleTable e2 = v.extractLsb' 4 4) (h3 : nibbleAt c.nibbleTable e3 = v.extractLsb' 0 4) :
    recover c [e0, e1, e2, e3] = v := by
  rw [recover_eq_append, h0, h1, h2, h3, append_nibbles]

theorem recover_encodeChecksum {enc : BitVec 4 → Byte} (h1 : lawL1 c.nibbleTable enc) (v : BitVec 16) :
    recover c (encodeChecksum enc v) = v :=
  recover_eq_of_nibbleAt (h1 _) (h1 _) (h1 _) (h1 _)

/-- Settles O50: L1 reads every byte of the encoding as its nibble, and L2 every byte with one bit flipped. -/
theorem recoverInvertsEncodeChecksum : Obligations.RecoverInvertsEncodeChecksum :=
  fun _ _ h1 => ⟨recover_encodeChecksum h1, fun h2 _ i0 i1 i2 i3 hi0 hi1 hi2 hi3 =>
    recover_eq_of_nibbleAt (h2 _ i0 hi0) (h2 _ i1 hi1) (h2 _ i2 hi2) (h2 _ i3 hi3)⟩

/-! ### The CRC register -/

theorem eightTimes_eq_iterate (f : BitVec 16 → BitVec 16) (w : BitVec 16) : eightTimes f w = f^[8] w := rfl

/-- Undoing the xor-out leaves the register after the bytes (R176), here in the direction most significant bit first. -/
theorem crc16_xor_crcXorout_of_not_reflect (hc : c.crcReflect = false) (d : Bytes) :
    crc16 c d ^^^ c.crcXorout = d.foldl (crcByte c.crcPoly) crcInit := by
  simp [crc16, hc]

/-- The same for the reflected direction. -/
theorem crc16_xor_crcXorout_of_reflect (hc : c.crcReflect = true) (d : Bytes) :
    crc16 c d ^^^ c.crcXorout = d.foldl (crcByteReflected c.crcPoly.reverse) crcInit := by
  simp [crc16, hc]

/-- Of no bytes, CRC16 is the initial register with the xor-out (R176). -/
theorem crc16_nil (c : Config) : crc16 c [] = crcInit ^^^ c.crcXorout := by
  cases hc : c.crcReflect <;> simp [crc16, hc]

theorem crc16_concat_of_not_reflect (hc : c.crcReflect = false) (d : Bytes) (b : Byte) :
    crc16 c (d ++ [b]) ^^^ c.crcXorout
      = (crcBit c.crcPoly)^[8] (crc16 c d ^^^ c.crcXorout ^^^ (b.setWidth 16 <<< 8)) := by
  rw [crc16_xor_crcXorout_of_not_reflect hc, crc16_xor_crcXorout_of_not_reflect hc, List.foldl_concat, crcByte,
    eightTimes_eq_iterate]

theorem crc16_concat_of_reflect (hc : c.crcReflect = true) (d : Bytes) (b : Byte) :
    crc16 c (d ++ [b]) ^^^ c.crcXorout
      = (crcBitReflected c.crcPoly.reverse)^[8] (crc16 c d ^^^ c.crcXorout ^^^ b.setWidth 16) := by
  rw [crc16_xor_crcXorout_of_reflect hc, crc16_xor_crcXorout_of_reflect hc, List.foldl_concat, crcByteReflected,
    eightTimes_eq_iterate]

/-- In the decided variant (R10) nothing is xored out, so CRC16 is the register itself. -/
theorem crc16_of_decided (hpoly : c.crcPoly = 0x1021#16) (hrefl : c.crcReflect = false) (hxor : c.crcXorout = 0x0000#16)
    (d : Bytes) : crc16 c d = d.foldl (crcByte 0x1021#16) crcInit := by
  have h := crc16_xor_crcXorout_of_not_reflect hrefl d
  rwa [hpoly, hxor, BitVec.xor_zero] at h

/-! ### CR.REC, CRC.CALC and CRC.REF -/

/-- Each byte of the response to CR.REC holds two of the nibbles (R175). -/
theorem u16be_append_nibbles (n3 n2 n1 n0 : BitVec 4) : u16be (n3 ++ n2 ++ n1 ++ n0) = [n3 ++ n2, n1 ++ n0] := by
  have hhigh : (n3 ++ n2 ++ n1 ++ n0).extractLsb' 8 8 = n3 ++ n2 := by
    rw [BitVec.append_assoc]
    exact BitVec.extractLsb'_append_eq_left
  have hlow : (n3 ++ n2 ++ n1 ++ n0).extractLsb' 0 8 = n1 ++ n0 := by
    rw [BitVec.append_assoc]
    exact BitVec.extractLsb'_append_eq_right
  rw [u16be, hhigh, hlow]

theorem exec_crRec_of_four (e0 e1 e2 e3 : Byte) (hmax : 4 ≤ s.cfg.val.maxOperand) :
    exec (.crRec [e0, e1, e2, e3]) s = .next (answer s 0x00#8 (u16be (recover s.cfg.val [e0, e1, e2, e3]))) := by
  have hop : operandO4 s.cfg.val [e0, e1, e2, e3] = .ok [e0, e1, e2, e3] :=
    checkLen_map_eq_ok_iff.2 ⟨⟨hmax, Nat.le_refl 4, Nat.le_refl 4⟩, rfl⟩
  rw [exec, execCrRec, hop, withOperand_ok, respond_ok]

theorem exec_crcCalc_of_le {op : Bytes} (hlen : op.length ≤ s.cfg.val.maxOperand) :
    exec (.crcCalc op) s = .next (answer s 0x00#8 (u16be (crc16 s.cfg.val op))) :=
  withOperand_operandOB_of_le hlen fun d => s.respond .ok (u16be (crc16 s.cfg.val d))

theorem exec_crcRef_of_le {op : Bytes} (hlen : op.length ≤ s.cfg.val.maxOperand) :
    exec (.crcRef op) s = .next (answer s 0x00#8 (u16be (refCrc s.cfg.val op))) :=
  withOperand_operandOB_of_le hlen fun d => s.respond .ok (u16be (refCrc s.cfg.val d))

/-- Settles O49: each command goes on with its operand, a further byte is eight more bit steps of the register, and the check
values are those of the decided variant's register. -/
theorem checksumCommandsComplete : Obligations.ChecksumCommandsComplete := by
  refine ⟨fun s e0 e1 e2 e3 hmax => ?_, fun s op => exec_crcCalc_of_le, fun s op => exec_crcRef_of_le, crc16_nil,
    fun c d b => (crc16_concat_of_not_reflect · d b), fun c d b => (crc16_concat_of_reflect · d b),
    fun c hpoly hrefl hxor => ?_⟩
  · rw [exec_crRec_of_four e0 e1 e2 e3 hmax, recover_eq_append, u16be_append_nibbles]
  · simp only [crc16_of_decided hpoly hrefl hxor]
    decide +kernel

end Sys2Proof.Machine
end

section
/-! PA.FRAME and PA.CAPT, whole next state, and the one class of every located frame (45_assembler.md rules R187, R189, R196 to
R200). -/

namespace Sys2Proof.Machine

variable {s : State} {op : Bytes} {c : Config} {body : Bytes} {off : Nat}

/-! ### The outcome of a body, by its length -/

theorem decodeFrame_of_lt (h : body.length < 36) : decodeFrame c body off = .drop .frameTooShort := if_pos h

theorem decodeFrame_of_gt (h : 275 < body.length) : decodeFrame c body off = .drop .frameTooLong := by
  rcases decodeFrame_cases c body off with ⟨hshort, -⟩ | ⟨-, hdrop⟩ | ⟨-, hle, -⟩
  · omega
  · exact hdrop
  · omega

theorem decodeFrame_of_legal (hlo : 36 ≤ body.length) (hhi : body.length ≤ 275) :
    decodeFrame c body off = .record (decodeBody c body off) := by
  rcases decodeFrame_cases c body off with ⟨hshort, -⟩ | ⟨hlong, -⟩ | ⟨-, -, hrecord⟩
  · omega
  · omega
  · exact hrecord

theorem flagsClean_iff (flags : Byte) : flagsClean flags = true ↔ flags &&& 0x07#8 = 0x00#8 := beq_iff_eq

/-! ### PA.FRAME -/

theorem Counters.addFrames_dropped_one (n : Counters) :
    n.addFrames 0 0 1 = { n with dropped := n.dropped + 1#32 } := by simp [Counters.addFrames]

theorem Counters.addFrames_clean_only (n : Counters) (nc : Nat) :
    n.addFrames nc 0 0 = { n with clean := n.clean + BitVec.ofNat 32 nc } := by simp [Counters.addFrames]

theorem Counters.addFrames_degraded_one (n : Counters) :
    n.addFrames 0 1 0 = { n with degraded := n.degraded + 1#32 } := by simp [Counters.addFrames]

/-- A drop counts in `CNT_DROPPED` alone: its reason is no command error (R197, R226, R230). -/
theorem finishFrame_drop {reason : Status} (h : reason.isCommandError = false) (s : State) :
    s.finishFrame (.drop reason) =
      answer { s with cnt := { s.cnt with dropped := s.cnt.dropped + 1#32 } } reason.code [] := by
  rw [State.finishFrame, raise_of_not_commandError h, State.countFrames, Counters.addFrames_dropped_one]

/-- A record counts as clean or degraded (R197, R198). -/
theorem finishFrame_record (s : State) (r : Record) :
    s.finishFrame (.record r) = answer
      { s with cnt := if r.flags &&& 0x07#8 = 0x00#8 then { s.cnt with clean := s.cnt.clean + 1#32 }
                      else { s.cnt with degraded := s.cnt.degraded + 1#32 } } 0x00#8 r.bytes := by
  by_cases hclean : r.flags &&& 0x07#8 = 0x00#8
  · rw [State.finishFrame, if_pos ((flagsClean_iff _).2 hclean), if_pos hclean, State.countFrames,
      Counters.addFrames_clean_only, respond_ok]
  · rw [State.finishFrame, if_neg (mt (flagsClean_iff _).1 hclean), if_neg hclean, State.countFrames,
      Counters.addFrames_degraded_one, respond_ok]

/-- Settles O51: the length decides the outcome of the body, and the outcome how the command ends. -/
theorem paFrameCompletes : Obligations.PaFrameCompletes := by
  refine fun s op hmax => ⟨fun hshort => ?_, fun hlong => ?_, fun hlo hhi => ?_⟩
  · rw [exec_paFrame_of_le hmax, decodeFrame_of_lt hshort, finishFrame_drop rfl]
    rfl
  · rw [exec_paFrame_of_le hmax, decodeFrame_of_gt hlong, finishFrame_drop rfl]
    rfl
  · rw [exec_paFrame_of_le hmax, decodeFrame_of_legal hlo hhi, finishFrame_record]

/-! ### PA.CAPT -/

/-- Every located frame is exactly one of clean, degraded and dropped (R198). -/
theorem FrameResult.one_class (f : FrameResult) : f.isClean.toNat + f.isDegraded.toNat + f.isDrop.toNat = 1 := by
  cases f with
  | drop reason => rfl
  | record r => cases h : flagsClean r.flags <;> simp [isClean, isDegraded, isDrop, h]

theorem countClean_add_countDegraded_add_countDropped (fs : List (Nat × FrameResult)) :
    countClean fs + countDegraded fs + countDropped fs = fs.length := by
  induction fs with
  | nil => rfl
  | cons f fs ih =>
    have hf := f.2.one_class
    simp only [countClean, countDegraded, countDropped, List.countP_cons, List.length_cons] at ih ⊢
    simp only [Bool.toNat, Bool.cond_eq_ite] at hf
    omega

/-- One frame stands behind every marker (R121, R187). -/
theorem captureFrames_length (c : Config) (cap : Bytes) : (captureFrames c cap).length = (markerOffsets cap).length := by
  rw [captureFrames, List.length_map, ← List.length_map (f := Prod.fst), map_fst_frameExtents]

theorem captureFrames_of_no_marker {cap : Bytes} (h : markerOffsets cap = []) (c : Config) : captureFrames c cap = [] := by
  rw [captureFrames, h]
  rfl

theorem exec_paCapt_of_le (hlen : op.length ≤ s.cfg.val.maxOperand) :
    exec (.paCapt op) s = .next (answer
      (s.countFrames (countClean (captureFrames s.cfg.val op)) (countDegraded (captureFrames s.cfg.val op))
        (countDropped (captureFrames s.cfg.val op))) 0x00#8 (captureResult (captureFrames s.cfg.val op))) :=
  withOperand_operandOB_of_le hlen _

theorem exec_paCapt_of_no_marker (hlen : op.length ≤ s.cfg.val.maxOperand) (h : markerOffsets op = []) :
    exec (.paCapt op) s = .next (answer s 0x00#8 (List.replicate 16 0x00#8)) := by
  have hcount : s.countFrames (countClean []) (countDegraded []) (countDropped []) = s := by
    simp [State.countFrames, Counters.addFrames, countClean, countDegraded, countDropped]
  rw [exec_paCapt_of_le hlen, captureFrames_of_no_marker h, hcount]
  rfl

/-- Settles O52: the totals are those of the located frames, one for every marker. -/
theorem paCaptCompletes : Obligations.PaCaptCompletes := fun s op hlen =>
  ⟨captureFrames s.cfg.val op, _, _, _, rfl, rfl, rfl, rfl,
    (countClean_add_countDegraded_add_countDropped _).trans (captureFrames_length _ op), exec_paCapt_of_le hlen,
    exec_paCapt_of_no_marker hlen⟩

end Sys2Proof.Machine
end

section
/-! The fields of a frame body and of a record: every field stands at its offset with its length, each region decodes on its own,
and the spare byte is never read (45_assembler.md rules R188, R190 to R195, 93_implementation_defined.md I11). -/

namespace Sys2Proof.Machine

variable {c : Config} {body body' : Bytes} {off : Nat}

/-! ### Slices -/

section Slice

variable {a b a' b' : Nat} {xs ys : Bytes}

theorem getElem?_slice (a b : Nat) (xs : Bytes) (k : Nat) :
    (slice a b xs)[k]? = if a + k < b then xs[a + k]? else none := by
  rw [slice, List.getElem?_drop, List.getElem?_take]

/-- Two slices agree exactly where the byte strings agree between their ends. -/
theorem slice_eq_slice_iff : slice a b xs = slice a b ys ↔ ∀ k, a ≤ k → k < b → xs[k]? = ys[k]? := by
  constructor
  · intro h k hak hkb
    have hk := congrArg (fun zs : Bytes => zs[k - a]?) h
    simpa only [getElem?_slice, Nat.add_sub_cancel' hak, if_pos hkb] using hk
  · intro h
    refine List.ext_getElem? fun k => ?_
    rw [getElem?_slice, getElem?_slice]
    split
    case isTrue hk => exact h _ (Nat.le_add_right a k) hk
    case isFalse => rfl

theorem slice_eq_slice_of_subrange (h : slice a b xs = slice a b ys) (ha : a ≤ a') (hb : b' ≤ b) :
    slice a' b' xs = slice a' b' ys :=
  slice_eq_slice_iff.2 fun k hk hk' => slice_eq_slice_iff.1 h k (ha.trans hk) (hk'.trans_le hb)

/-- Two slices that meet are one (R188). -/
theorem slice_append_slice {m : Nat} (ha : a ≤ m) (hb : m ≤ b) (xs : Bytes) :
    slice a m xs ++ slice m b xs = slice a b xs := by
  have htake : xs.take m = (xs.take b).take m := by rw [List.take_take, min_eq_left hb]
  have hdrop : (xs.take b).drop m = ((xs.take b).drop a).drop (m - a) := by rw [List.drop_drop, Nat.add_sub_cancel' ha]
  rw [slice, slice, slice, htake, List.drop_take, hdrop, List.take_append_drop]

/-- A slice that begins behind the bytes in front. -/
theorem slice_append_of_length {pre : Bytes} (h : pre.length = a) (m n : Nat) (xs : Bytes) :
    slice (a + m) (a + n) (pre ++ xs) = slice m n xs := by
  rw [slice, ← h, List.take_length_add_append, List.drop_length_add_append, slice]

/-- The slice that is all the bytes in front. -/
theorem slice_zero_append_of_length {pre : Bytes} (h : pre.length = a) (xs : Bytes) : slice 0 a (pre ++ xs) = pre := by
  rw [slice, ← h, List.take_left, List.drop_zero]

/-- The field between what stands before it and what stands behind it. -/
theorem slice_append_append {pre field : Bytes} (ha : pre.length = a) (hb : a + field.length = b) (post : Bytes) :
    slice a b (pre ++ field ++ post) = field := by
  rw [List.append_assoc, ← hb]
  exact (slice_append_of_length ha 0 _ _).trans (slice_zero_append_of_length rfl post)

/-- Of byte strings in a row, the `k`-th stands between the length of the first `k` and that of the first `k + 1`. -/
theorem slice_flatten (fs : List Bytes) (k : Nat) :
    slice (fs.take k).flatten.length (fs.take (k + 1)).flatten.length fs.flatten = fs[k]?.getD [] := by
  induction fs generalizing k with
  | nil => cases k <;> rfl
  | cons f fs ih =>
    cases k with
    | zero => exact slice_zero_append_of_length (by simp) _
    | succ k =>
      rw [List.take_succ_cons, List.take_succ_cons, List.flatten_cons, List.flatten_cons, List.length_append,
        List.length_append, List.flatten_cons, slice_append_of_length rfl, ih]
      rfl

end Slice

/-! ### The fields of a record -/

/-- The fields of a record have the lengths of R195; its payload may have any. -/
structure Record.FieldLengths (r : Record) : Prop where
  header : r.header.bytes.length = 13
  headerParity : r.headerParity.length = 2
  payloadParity : r.payloadParity.length = 16
  encodedChecksum : r.encodedChecksum.length = 4

/-- The byte strings a record is made of, in the order of R195. -/
def Record.fields (r : Record) : List Bytes :=
  [[r.flags, countByte r.header.count, countByte r.payload.count, BitVec.ofNat 8 r.plen], u32be (BitVec.ofNat 32 r.offset),
    r.header.bytes, r.headerParity, r.payloadParity, r.encodedChecksum, u16be r.rxCrc, u16be r.refCrc, r.payload.bytes]

theorem Record.bytes_eq_flatten (r : Record) : r.bytes = r.fields.flatten := by
  simp [Record.bytes, Record.fields]

/-- R195, from offset 4 on: every field stands at its offset. -/
theorem Record.FieldLengths.layout {r : Record} (h : r.FieldLengths) :
    slice 4 8 r.bytes = u32be (BitVec.ofNat 32 r.offset) ∧ slice 8 21 r.bytes = r.header.bytes ∧
    slice 21 23 r.bytes = r.headerParity ∧ slice 23 39 r.bytes = r.payloadParity ∧
    slice 39 43 r.bytes = r.encodedChecksum ∧ slice 43 45 r.bytes = u16be r.rxCrc ∧
    slice 45 47 r.bytes = u16be r.refCrc ∧ r.bytes.drop 47 = r.payload.bytes := by
  obtain ⟨hheader, hhp, hpp, hec⟩ := h
  have hfield (k : Nat) := slice_flatten r.fields k
  simp only [← Record.bytes_eq_flatten] at hfield
  refine ⟨?_, ?_, ?_, ?_, ?_, ?_, ?_, List.drop_left' (by simp [hheader, hhp, hpp, hec])⟩
  · simpa [Record.fields] using hfield 1
  · simpa [Record.fields, hheader] using hfield 2
  · simpa [Record.fields, hheader, hhp] using hfield 3
  · simpa [Record.fields, hheader, hhp, hpp] using hfield 4
  · simpa [Record.fields, hheader, hhp, hpp, hec] using hfield 5
  · simpa [Record.fields, hheader, hhp, hpp, hec] using hfield 6
  · simpa [Record.fields, hheader, hhp, hpp, hec] using hfield 7

/-! ### The `FLAGS` byte, bit by bit (R195) -/

theorem recordFlags_getLsbD_zero (badHeader badPayload badCrc : Bool) :
    (recordFlags badHeader badPayload badCrc).getLsbD 0 = badHeader := by
  revert badHeader badPayload badCrc
  decide

theorem recordFlags_getLsbD_one (badHeader badPayload badCrc : Bool) :
    (recordFlags badHeader badPayload badCrc).getLsbD 1 = badPayload := by
  revert badHeader badPayload badCrc
  decide

theorem recordFlags_getLsbD_two (badHeader badPayload badCrc : Bool) :
    (recordFlags badHeader badPayload badCrc).getLsbD 2 = badCrc := by
  revert badHeader badPayload badCrc
  decide

theorem recordFlags_getLsbD_three (badHeader badPayload badCrc : Bool) :
    (recordFlags badHeader badPayload badCrc).getLsbD 3 = !badCrc := by
  revert badHeader badPayload badCrc
  decide

theorem recordFlags_upper (badHeader badPayload badCrc : Bool) :
    (recordFlags badHeader badPayload badCrc).extractLsb' 4 4 = 0#4 := by
  revert badHeader badPayload badCrc
  decide

theorem Record.flags_getLsbD_zero (r : Record) : r.flags.getLsbD 0 = r.header.count.isNone :=
  recordFlags_getLsbD_zero _ _ _

theorem Record.flags_getLsbD_one (r : Record) : r.flags.getLsbD 1 = r.payload.count.isNone :=
  recordFlags_getLsbD_one _ _ _

theorem Record.flags_getLsbD_two (r : Record) : r.flags.getLsbD 2 = (r.rxCrc != r.refCrc) :=
  recordFlags_getLsbD_two _ _ _

theorem Record.flags_getLsbD_three (r : Record) : r.flags.getLsbD 3 = !r.flags.getLsbD 2 := by
  rw [r.flags_getLsbD_two]
  exact recordFlags_getLsbD_three _ _ _

theorem Record.flags_upper (r : Record) : r.flags.extractLsb' 4 4 = 0#4 :=
  recordFlags_upper _ _ _

/-! ### Regions -/

section Region

variable {data parity : Bytes} {t : Nat}

theorem decodeRegion_of_some {w : Bytes} {d : Nat} (h : bdDecode c (data ++ parity) t = some (w, d)) :
    decodeRegion c data parity t = { bytes := descramble (w.take data.length) dsInit, count := some d } := by
  rw [decodeRegion, h]

theorem decodeRegion_of_none (h : bdDecode c (data ++ parity) t = none) :
    decodeRegion c data parity t =
      { bytes := if c.descrambleUncorrected then descramble data dsInit else data, count := none } := by
  rw [decodeRegion, h]

theorem decodeRegion_count_isNone (c : Config) (data parity : Bytes) (t : Nat) :
    (decodeRegion c data parity t).count.isNone = (bdDecode c (data ++ parity) t).isNone := by
  rcases h : bdDecode c (data ++ parity) t with _ | ⟨w, d⟩
  · rw [decodeRegion_of_none h]
    rfl
  · rw [decodeRegion_of_some h]
    rfl

/-- A region keeps the length of its data, corrected or not (R190, R191). -/
theorem decodeRegion_bytes_length (c : Config) (data parity : Bytes) (t : Nat) :
    (decodeRegion c data parity t).bytes.length = data.length := by
  rcases h : bdDecode c (data ++ parity) t with _ | ⟨w, d⟩
  · rw [decodeRegion_of_none h]
    cases c.descrambleUncorrected <;> simp
  · obtain ⟨-, hlen, -⟩ := decoderIsSound c _ _ _ _ h
    rw [decodeRegion_of_some h, descramble_length, List.length_take, hlen, List.length_append]
    exact min_eq_left (Nat.le_add_right _ _)

/-- The count of a region is at most the radius of its code, which is less than the 0xFF of an uncorrectable one (R154, R195). -/
theorem countByte_decodeRegion_cases (c : Config) (data parity : Bytes) (ht : t / 2 < 255) :
    (∃ d ≤ t / 2, countByte (decodeRegion c data parity t).count = BitVec.ofNat 8 d ∧ BitVec.ofNat 8 d ≠ 0xFF#8 ∧
      (decodeRegion c data parity t).count.isNone = false) ∨
    (countByte (decodeRegion c data parity t).count = 0xFF#8 ∧ (decodeRegion c data parity t).count.isNone = true) := by
  rcases h : bdDecode c (data ++ parity) t with _ | ⟨w, d⟩
  · rw [decodeRegion_of_none h]
    exact .inr ⟨rfl, rfl⟩
  · obtain ⟨-, -, -, hd⟩ := decoderIsSound c _ _ _ _ h
    rw [decodeRegion_of_some h]
    refine .inl ⟨d, hd, rfl, fun hff => ?_, rfl⟩
    have := congrArg BitVec.toNat hff
    simp only [BitVec.toNat_ofNat] at this
    omega

theorem countByte_decodeRegion_eq_ff_iff (c : Config) (data parity : Bytes) (ht : t / 2 < 255) :
    countByte (decodeRegion c data parity t).count = 0xFF#8 ↔ (decodeRegion c data parity t).count.isNone = true := by
  rcases countByte_decodeRegion_cases c data parity ht with ⟨d, -, hcount, hne, hsome⟩ | ⟨hcount, hnone⟩
  · rw [hcount, hsome]
    simpa using hne
  · rw [hcount, hnone]
    simp

end Region

/-! ### The fields of a body -/

theorem leadShift_le_one (pos : SparePos) : leadShift pos ≤ 1 := by cases pos <;> decide

/-- The fields of a body of legal length are whole (R188, R189). -/
theorem bodyFields_length (pos : SparePos) (h : 36 ≤ body.length) :
    (bodyFields pos (body.length - 36) body).hr.length = 13 ∧ (bodyFields pos (body.length - 36) body).hp.length = 2 ∧
    (bodyFields pos (body.length - 36) body).pr.length = body.length - 36 ∧
    (bodyFields pos (body.length - 36) body).pp.length = 16 ∧
    (bodyFields pos (body.length - 36) body).ec.length = 4 := by
  have hshift := leadShift_le_one pos
  simp only [bodyFields, slice_length]
  omega

theorem decodeBody_fieldLengths (c : Config) (off : Nat) (h : 36 ≤ body.length) : (decodeBody c body off).FieldLengths := by
  obtain ⟨hhr, hhp, -, hpp, hec⟩ := bodyFields_length c.sparePos h
  exact ⟨(decodeRegion_bytes_length _ _ _ _).trans hhr, hhp, hpp, hec⟩

theorem decodeBody_bytes_length (c : Config) (off : Nat) (h : 36 ≤ body.length) :
    (decodeBody c body off).bytes.length = 47 + (body.length - 36) := by
  obtain ⟨hheader, hhp, hpp, hec⟩ := decodeBody_fieldLengths c off h
  obtain ⟨-, -, hpr, -, -⟩ := bodyFields_length c.sparePos h
  have hpayload : (decodeBody c body off).payload.bytes.length = body.length - 36 :=
    (decodeRegion_bytes_length _ _ _ _).trans hpr
  rw [Record.bytes_length, hheader, hhp, hpp, hec, hpayload]

/-- Settles O53: `Record.FieldLengths.layout` for the places, the decoder's answer on each region for the values. -/
theorem recordLayout : Obligations.RecordLayout := by
  intro c body off hlo hhi r p f
  obtain ⟨hhr, -, hpr, -, -⟩ := bodyFields_length c.val.sparePos hlo
  have hlayout := (decodeBody_fieldLengths c.val off hlo).layout
  have hheader : r.header = decodeRegion c.val f.hr f.hp 2 := rfl
  have hpayload : r.payload = decodeRegion c.val f.pr f.pp 16 := rfl
  refine ⟨decodeBody_bytes_length c.val off hlo,
    ⟨rfl, ?_, ?_, r.flags_getLsbD_two, r.flags_getLsbD_three, r.flags_upper⟩,
    ⟨countByte r.header.count, rfl, ?_, ?_, fun w d h => ?_⟩, ⟨countByte r.payload.count, rfl, ?_, ?_, fun w d h => ?_⟩,
    fun h => ?_, fun h => ?_, rfl, hlayout⟩
  · rw [r.flags_getLsbD_zero, hheader, decodeRegion_count_isNone]
  · rw [r.flags_getLsbD_one, hpayload, decodeRegion_count_isNone]
  · rw [hheader]
    rcases countByte_decodeRegion_cases c.val f.hr f.hp (t := 2) (by decide) with ⟨d, hd, hcount, -⟩ | ⟨hcount, -⟩
    · have hd' : d = 0 ∨ d = 1 := by omega
      rcases hd' with rfl | rfl
      · exact .inl hcount
      · exact .inr (.inl hcount)
    · exact .inr (.inr hcount)
  · rw [r.flags_getLsbD_zero, hheader, countByte_decodeRegion_eq_ff_iff _ _ _ (by decide)]
  · rw [hheader, decodeRegion_of_some h, hhr]
    exact ⟨rfl, rfl⟩
  · rw [hpayload]
    rcases countByte_decodeRegion_cases c.val f.pr f.pp (t := 16) (by decide) with ⟨d, hd, hcount, -⟩ | ⟨hcount, -⟩
    · refine .inl (hcount ▸ BitVec.le_def.2 ?_)
      rw [BitVec.toNat_ofNat]
      exact (Nat.mod_le d _).trans hd
    · exact .inr hcount
  · rw [r.flags_getLsbD_one, hpayload, countByte_decodeRegion_eq_ff_iff _ _ _ (by decide)]
  · rw [hpayload, decodeRegion_of_some h, hpr]
    exact ⟨rfl, rfl⟩
  · rw [hheader, decodeRegion_of_none h]
    rfl
  · rw [hpayload, decodeRegion_of_none h]
    rfl

/-! ### What a record depends on -/

/-- All the offsets that R188 gives the fields lie beside the spare byte. -/
theorem slice_eq_of_ne_spareIndex (hlo : 36 ≤ body.length) (h : ∀ k, k ≠ spareIndex c body → body[k]? = body'[k]?) :
    slice (leadShift c.sparePos) (leadShift c.sparePos + 35 + (body.length - 36)) body =
      slice (leadShift c.sparePos) (leadShift c.sparePos + 35 + (body.length - 36)) body' := by
  refine slice_eq_slice_iff.2 fun k hk hk' => h k ?_
  cases hpos : c.sparePos <;> simp only [hpos, leadShift, spareIndex] at hk hk' ⊢ <;> omega

/-- The fields take nothing but the bytes beside the spare byte (R188). -/
theorem bodyFields_congr {pos : SparePos} {p : Nat}
    (h : slice (leadShift pos) (leadShift pos + 35 + p) body = slice (leadShift pos) (leadShift pos + 35 + p) body') :
    bodyFields pos p body = bodyFields pos p body' := by
  have hfield {a b : Nat} (ha : leadShift pos ≤ a) (hb : b ≤ leadShift pos + 35 + p) : slice a b body = slice a b body' :=
    slice_eq_slice_of_subrange h ha hb
  simp only [bodyFields]
  congr 1 <;> exact hfield (by omega) (by omega)

/-- I11: two bodies that differ in the spare byte alone have the same outcome. -/
theorem decodeFrame_congr_of_spare (hlen : body.length = body'.length)
    (h : ∀ k, k ≠ spareIndex c body → body[k]? = body'[k]?) : decodeFrame c body off = decodeFrame c body' off := by
  rcases decodeFrame_cases c body off with ⟨hshort, hdrop⟩ | ⟨hlong, hdrop⟩ | ⟨hlo, hhi, hrecord⟩
  · rw [hdrop, decodeFrame_of_lt (hlen ▸ hshort)]
  · rw [hdrop, decodeFrame_of_gt (hlen ▸ hlong)]
  · have hfields : bodyFields c.sparePos (body.length - overhead) body = bodyFields c.sparePos (body.length - overhead) body' :=
      bodyFields_congr (slice_eq_of_ne_spareIndex hlo h)
    rw [hrecord, decodeFrame_of_legal (hlen ▸ hlo) (hlen ▸ hhi), decodeBody, decodeBody, ← hlen, hfields]

/-! The regions and the encoded checksum of a body with `p` payload bytes, by their offsets (R188, R190 to R192). -/

section Offsets

variable {p : Nat}

theorem decodeBody_header (c : Config) (body : Bytes) (off : Nat) :
    (decodeBody c body off).header =
      decodeRegion c (slice (leadShift c.sparePos) (leadShift c.sparePos + 13) body)
        (slice (leadShift c.sparePos + 13) (leadShift c.sparePos + 15) body) 2 := rfl

theorem decodeBody_payload (h : body.length = 36 + p) :
    (decodeBody c body off).payload =
      decodeRegion c (slice (leadShift c.sparePos + 15) (leadShift c.sparePos + 15 + p) body)
        (slice (leadShift c.sparePos + 15 + p) (leadShift c.sparePos + 31 + p) body) 16 := by
  obtain rfl : body.length - 36 = p := by omega
  rfl

theorem decodeBody_rxCrc (h : body.length = 36 + p) :
    (decodeBody c body off).rxCrc =
      recover c (slice (leadShift c.sparePos + 31 + p) (leadShift c.sparePos + 35 + p) body) := by
  obtain rfl : body.length - 36 = p := by omega
  rfl

theorem decodeBody_refCrc (c : Config) (body : Bytes) (off : Nat) :
    (decodeBody c body off).refCrc = refCrc c (decodeBody c body off).payload.bytes := rfl

theorem decodeBody_header_congr
    (heq : slice (leadShift c.sparePos) (leadShift c.sparePos + 15) body =
      slice (leadShift c.sparePos) (leadShift c.sparePos + 15) body') :
    (decodeBody c body off).header = (decodeBody c body' off).header := by
  rw [decodeBody_header, decodeBody_header, slice_eq_slice_of_subrange heq (by omega) (by omega),
    slice_eq_slice_of_subrange heq (a' := leadShift c.sparePos + 13) (by omega) (by omega)]

theorem decodeBody_payload_congr (h : body.length = 36 + p) (h' : body'.length = 36 + p)
    (heq : slice (leadShift c.sparePos + 15) (leadShift c.sparePos + 31 + p) body =
      slice (leadShift c.sparePos + 15) (leadShift c.sparePos + 31 + p) body') :
    (decodeBody c body off).payload = (decodeBody c body' off).payload := by
  rw [decodeBody_payload h, decodeBody_payload h', slice_eq_slice_of_subrange heq (by omega) (by omega),
    slice_eq_slice_of_subrange heq (a' := leadShift c.sparePos + 15 + p) (by omega) (by omega)]

theorem decodeBody_rxCrc_congr (h : body.length = 36 + p) (h' : body'.length = 36 + p)
    (heq : slice (leadShift c.sparePos + 31 + p) (leadShift c.sparePos + 35 + p) body =
      slice (leadShift c.sparePos + 31 + p) (leadShift c.sparePos + 35 + p) body') :
    (decodeBody c body off).rxCrc = (decodeBody c body' off).rxCrc := by
  rw [decodeBody_rxCrc h, decodeBody_rxCrc h', heq]

end Offsets

/-- Settles O54: each part of a record is decoded from its own slice of the body, and `FLAGS[2]` compares the encoded checksum
with that of the decoded payload. -/
theorem regionsAreIndependent : Obligations.RegionsAreIndependent := by
  refine ⟨fun c body body' off => decodeFrame_congr_of_spare, ?_⟩
  intro c body body' off hlen hlo hhi b p
  have hp : body.length = 36 + p := by omega
  have hp' : body'.length = 36 + p := hlen ▸ hp
  refine ⟨fun heq => ?_, fun heq => ?_, fun heq => ?_⟩
  · have hheader := decodeBody_header_congr (off := off) heq
    exact ⟨hheader, by rw [Record.flags_getLsbD_zero, Record.flags_getLsbD_zero, hheader]⟩
  · have hpayload := decodeBody_payload_congr (off := off) hp hp' heq
    exact ⟨hpayload, by rw [Record.flags_getLsbD_one, Record.flags_getLsbD_one, hpayload]⟩
  · have hpayload := decodeBody_payload_congr (off := off) hp hp' (slice_eq_slice_of_subrange heq le_rfl (by omega))
    have hcrc := decodeBody_rxCrc_congr (off := off) hp hp' (slice_eq_slice_of_subrange heq (by omega) le_rfl)
    rw [Record.flags_getLsbD_two, Record.flags_getLsbD_two, decodeBody_refCrc, decodeBody_refCrc, hpayload, hcrc]

end Sys2Proof.Machine
end

section
/-! A capture of marked bodies (45_assembler.md rules R187, R200, R201, R209): no byte of the marker but its
first begins a marker, so none straddles the end of a body, and the frames are exactly the bodies. -/

namespace Sys2Proof.Machine

variable {bs pre cap : Bytes}

/-! ### The marker search in marked bodies -/

/-- A search from another offset finds the same matches, shifted. -/
theorem markersFrom_eq_map (o : Nat) (bs : Bytes) : markersFrom o bs = (markersFrom 0 bs).map (o + ·) := by
  induction bs generalizing o with
  | nil => rfl
  | cons b bs ih =>
    have htail : markersFrom (o + 1) bs = (markersFrom 1 bs).map (o + ·) := by
      rw [ih, ih 1, List.map_map]
      simp only [Function.comp_def, Nat.add_assoc]
    by_cases h : marker.isPrefixOf (b :: bs)
    · rw [markersFrom, markersFrom, if_pos h, if_pos h, htail]
      rfl
    · rw [markersFrom, markersFrom, if_neg h, if_neg h, htail]

theorem markersFrom_eq_nil (h : markerOffsets bs = []) (o : Nat) : markersFrom o bs = [] := by
  rw [markersFrom_eq_map, ← markerOffsets, h, List.map_nil]

theorem markerOffsets_cons_eq_nil {b : Byte} (h : markerOffsets (b :: bs) = []) :
    ¬marker <+: b :: bs ∧ markerOffsets bs = [] := by
  by_cases hmarker : marker <+: b :: bs
  · rw [markerOffsets, markersFrom, if_pos (List.isPrefixOf_iff_prefix.2 hmarker)] at h
    cases h
  · rw [markerOffsets, markersFrom_cons_of_not_prefix hmarker, markersFrom_eq_map, List.map_eq_nil_iff] at h
    exact ⟨hmarker, h⟩

/-- A marker that begins before another one ends before it: none of its last three bytes is its first. -/
theorem marker_prefix_of_prefix_append {b : Byte} {rest : Bytes} (h : marker <+: b :: bs ++ (marker ++ rest)) :
    marker <+: b :: bs := by
  match bs with
  | [] | [_] | [_, _] => simp [marker] at h
  | _ :: _ :: _ :: _ => simpa [marker] using h

@[simp] theorem markedBodies_nil : markedBodies [] = [] := rfl

theorem markedBodies_cons (b : Bytes) (bodies : List Bytes) :
    markedBodies (b :: bodies) = marker ++ (b ++ markedBodies bodies) := by
  rw [markedBodies, List.flatMap_cons, List.append_assoc, ← markedBodies]

/-- Bytes without a marker hold none that begins in them and ends in the marked bodies behind. -/
theorem markersFrom_append_markedBodies (h : markerOffsets bs = []) (o : Nat) (bodies : List Bytes) :
    markersFrom o (bs ++ markedBodies bodies) = markersFrom (o + bs.length) (markedBodies bodies) := by
  induction bs generalizing o with
  | nil => rfl
  | cons b bs ih =>
    obtain ⟨hmarker, htail⟩ := markerOffsets_cons_eq_nil h
    have hstraddle : ¬marker <+: b :: (bs ++ markedBodies bodies) := by
      cases bodies with
      | nil => simpa using hmarker
      | cons body bodies => exact fun hpre => hmarker (marker_prefix_of_prefix_append (markedBodies_cons body bodies ▸ hpre))
    rw [List.cons_append, markersFrom_cons_of_not_prefix hstraddle, ih htail, List.length_cons, Nat.add_assoc,
      Nat.add_comm 1]

/-- The first match in marked bodies stands at their first body's marker, the next ones in the bodies behind. -/
theorem markersFrom_markedBodies_cons {body : Bytes} (h : markerOffsets body = []) (o : Nat) (bodies : List Bytes) :
    markersFrom o (markedBodies (body :: bodies)) =
      o :: markersFrom (o + 4 + body.length) (markedBodies bodies) := by
  rw [markedBodies_cons, markersFrom_marker_append, markersFrom_append_markedBodies h]

/-! ### The frames -/

/-- A frame ends where the next one starts, the last one at the end of the capture (R121). -/
theorem frameExtents_cons (total o : Nat) (os : List Nat) :
    frameExtents total (o :: os) = (o, os.headD total) :: frameExtents total os := by
  cases os <;> rfl

/-- Marked bodies start with a match, or are empty. -/
theorem headD_markersFrom_markedBodies (o : Nat) (bodies : List Bytes) :
    (markersFrom o (markedBodies bodies)).headD (o + (markedBodies bodies).length) = o := by
  cases bodies with
  | nil => rfl
  | cons body bodies =>
    rw [markedBodies_cons, markersFrom_marker_append]
    rfl

/-- The frames behind any bytes `pre` are the bodies, whatever matches stand in `pre`. -/
theorem frames_markedBodies (c : Config) {bodies : List Bytes} (h : ∀ b ∈ bodies, markerOffsets b = [])
    (hcap : cap = pre ++ markedBodies bodies) :
    ((frameExtents cap.length (markersFrom pre.length (markedBodies bodies))).map fun oe =>
      (oe.1, decodeFrame c (slice (oe.1 + 4) oe.2 cap) oe.1)) = placedBodies c pre.length bodies := by
  induction bodies generalizing pre with
  | nil => rfl
  | cons body bodies ih =>
    obtain ⟨hbody, hbodies⟩ := List.forall_mem_cons.1 h
    have hcap' : cap = pre ++ marker ++ body ++ markedBodies bodies := by simp [hcap, markedBodies_cons]
    have hlen : (pre ++ marker ++ body).length = pre.length + 4 + body.length := by
      rw [List.length_append, List.length_append]
      rfl
    have hend : (markersFrom (pre.length + 4 + body.length) (markedBodies bodies)).headD cap.length =
        pre.length + 4 + body.length := by
      rw [hcap', List.length_append, hlen]
      exact headD_markersFrom_markedBodies _ bodies
    have hslice : slice (pre.length + 4) (pre.length + 4 + body.length) cap = body := by
      rw [hcap']
      exact slice_append_append (by simp [marker]) rfl _
    rw [markersFrom_markedBodies_cons hbody, frameExtents_cons, List.map_cons, hend, hslice, placedBodies]
    exact congrArg _ (hlen ▸ ih hbodies hcap')

/-- Settles O55: the search finds nothing in the bytes before the first marker, and behind them the frames are the bodies. -/
theorem captureOfMarkedBodies : Obligations.CaptureOfMarkedBodies := by
  intro c lead bodies hlead hbodies
  rw [captureFrames, markerOffsets, markersFrom_append_markedBodies hlead, Nat.zero_add]
  exact frames_markedBodies c hbodies rfl

end Sys2Proof.Machine
end

section
/-! Built frame bodies and what becomes of them: decoded as sent, with wrong bytes within the radius, and three in a capture
(45_assembler.md rules R190 to R192, R205 to R207). -/

namespace Sys2Proof.Machine

variable {c : ValidConfig} {enc : BitVec 4 → Byte} {h p body : Bytes} {off : Nat}

/-! ### The layout of a built body -/

/-- BUILD_BODY with the spare byte, wherever it stands, split off (R188, R206). -/
theorem exists_buildBody_eq_append (c : Config) (enc : BitVec 4 → Byte) (h p : Bytes) (spare : Byte) :
    ∃ lead trail : Bytes, lead.length = leadShift c.sparePos ∧ lead.length + trail.length = 1 ∧
      buildBody c enc h p spare = lead ++ rsEncode c (scramble h dsInit) 2 ++ rsEncode c (scramble p dsInit) 16
        ++ encodeChecksum enc (refCrc c p) ++ trail := by
  rcases hpos : c.sparePos
  · exact ⟨[], [spare], rfl, rfl, by rw [buildBody, hpos]; rfl⟩
  · exact ⟨[spare], [], rfl, rfl, by rw [buildBody, hpos, List.append_nil]; rfl⟩

/-- The fields of a built body, for a header of 13 bytes. -/
structure BuiltFields (c : Config) (enc : BitVec 4 → Byte) (h p sent : Bytes) : Prop where
  length : sent.length = 36 + p.length
  header : slice (leadShift c.sparePos) (leadShift c.sparePos + 15) sent = rsEncode c (scramble h dsInit) 2
  payload : slice (leadShift c.sparePos + 15) (leadShift c.sparePos + 31 + p.length) sent =
    rsEncode c (scramble p dsInit) 16
  checksum : slice (leadShift c.sparePos + 31 + p.length) (leadShift c.sparePos + 35 + p.length) sent =
    encodeChecksum enc (refCrc c p)

theorem builtFields_buildBody (c : Config) (enc : BitVec 4 → Byte) (hh : h.length = 13) (p : Bytes) (spare : Byte) :
    BuiltFields c enc h p (buildBody c enc h p spare) := by
  obtain ⟨lead, trail, hlead, hspare, hsent⟩ := exists_buildBody_eq_append c enc h p spare
  have hheader : (rsEncode c (scramble h dsInit) 2).length = 15 := by rw [rsEncode_length, scramble_length, hh]
  have hpayload : (rsEncode c (scramble p dsInit) 16).length = p.length + 16 := by rw [rsEncode_length, scramble_length]
  have hchecksum : (encodeChecksum enc (refCrc c p)).length = 4 := rfl
  rw [hsent]
  refine ⟨?_, ?_, ?_, ?_⟩
  · simp only [List.length_append, hheader, hpayload, hchecksum]
    omega
  · rw [List.append_assoc, List.append_assoc]
    exact slice_append_append hlead (by rw [hheader]) _
  · rw [List.append_assoc]
    exact slice_append_append (by rw [List.length_append, hlead, hheader]) (by rw [hpayload]; omega) _
  · refine slice_append_append ?_ (by rw [hchecksum]; omega) _
    simp only [List.length_append, hlead, hheader, hpayload]
    omega

/-! ### One region within the radius -/

/-- R162, R190, R191: data and parity within the radius of the encoding of `m`, scrambled, give `m` and the number of wrong
bytes. -/
theorem decodeRegion_of_near {m data parity r : Bytes} {t : Nat} (hr : data ++ parity = r) (hdata : data.length = m.length)
    (hparity : parity.length = t) (hshort : m.length + t ≤ 255)
    (hnear : blockDist r (rsEncode c.val (scramble m dsInit) t) ≤ t / 2) :
    decodeRegion c.val data parity t =
      { bytes := m, count := some (blockDist r (rsEncode c.val (scramble m dsInit) t)) } := by
  subst hr
  have hlen : (rsEncode c.val (scramble m dsInit) t).length = m.length + t := by rw [rsEncode_length, scramble_length]
  have hreceived : Received c t (data ++ parity) (rsEncode c.val (scramble m dsInit) t) :=
    ⟨hlen ▸ hshort, isCodeword_rsEncode c.val _ t, by rw [List.length_append, hlen, hdata, hparity], hnear⟩
  obtain ⟨hinverse, -⟩ := scrambleAndDescrambleInvert m dsInit
  rw [decodeRegion_of_some hreceived.bdDecode_eq, hdata, ← scramble_length m dsInit, take_rsEncode, hinverse]

/-! ### One body within the radius -/

/-- The wrong bytes of a header and its parity. -/
def headerErrors (c : Config) (body sent : Bytes) : Nat :=
  blockDist (slice (leadShift c.sparePos) (leadShift c.sparePos + 15) body)
    (slice (leadShift c.sparePos) (leadShift c.sparePos + 15) sent)

/-- The wrong bytes of a payload of `n` bytes and its parity. -/
def payloadErrors (c : Config) (n : Nat) (body sent : Bytes) : Nat :=
  blockDist (slice (leadShift c.sparePos + 15) (leadShift c.sparePos + 31 + n) body)
    (slice (leadShift c.sparePos + 15) (leadShift c.sparePos + 31 + n) sent)

/-- The body was received for the built body `sent` as R207 allows it; its spare byte may be any. -/
structure ReceivedBody (c : Config) (n : Nat) (sent body : Bytes) : Prop where
  length : body.length = sent.length
  header : headerErrors c body sent ≤ 1
  payload : payloadErrors c n body sent ≤ 8
  checksum : slice (leadShift c.sparePos + 31 + n) (leadShift c.sparePos + 35 + n) body =
    slice (leadShift c.sparePos + 31 + n) (leadShift c.sparePos + 35 + n) sent

theorem receivedBody_self (c : Config) (n : Nat) (sent : Bytes) : ReceivedBody c n sent sent :=
  ⟨rfl, (blockDist_self _).trans_le (Nat.zero_le 1), (blockDist_self _).trans_le (Nat.zero_le 8), rfl⟩

/-- The record holds the header `h` and the payload `p`, corrected in `hErr` and `pErr` bytes, and both its checksums are that of
`p`. -/
structure HoldsFrame (c : Config) (h p : Bytes) (hErr pErr : Nat) (r : Record) : Prop where
  header : r.header = { bytes := h, count := some hErr }
  payload : r.payload = { bytes := p, count := some pErr }
  checksum : r.rxCrc = refCrc c p
  reference : r.refCrc = refCrc c p

/-- Such a record is clean, whatever was corrected (R195, R198). -/
theorem HoldsFrame.flags {c : Config} {hErr pErr : Nat} {r : Record} (hr : HoldsFrame c h p hErr pErr r) :
    r.flags = 0x08#8 := by
  rw [Record.flags, hr.header, hr.payload, hr.checksum, hr.reference, bne_self_eq_false]
  show recordFlags false false false = 0x08#8
  decide

section Within

variable {sent : Bytes} (hsent : BuiltFields c.val enc h p sent) (hbody : ReceivedBody c.val p.length sent body)

include hsent hbody

theorem decodeBody_header_of_received (hh : h.length = 13) :
    (decodeBody c.val body off).header = { bytes := h, count := some (headerErrors c.val body sent) } := by
  have hlen : body.length = 36 + p.length := hbody.length.trans hsent.length
  have hshift := leadShift_le_one c.val.sparePos
  have hnear := hbody.header
  rw [headerErrors, hsent.header] at hnear ⊢
  rw [decodeBody_header]
  exact decodeRegion_of_near (slice_append_slice (by omega) (by omega) body) (by rw [slice_length]; omega)
    (by rw [slice_length]; omega) (by omega) hnear

theorem decodeBody_payload_of_received (hp : p.length ≤ 239) :
    (decodeBody c.val body off).payload = { bytes := p, count := some (payloadErrors c.val p.length body sent) } := by
  have hlen : body.length = 36 + p.length := hbody.length.trans hsent.length
  have hshift := leadShift_le_one c.val.sparePos
  have hnear := hbody.payload
  rw [payloadErrors, hsent.payload] at hnear ⊢
  rw [decodeBody_payload hlen]
  exact decodeRegion_of_near (slice_append_slice (by omega) (by omega) body) (by rw [slice_length]; omega)
    (by rw [slice_length]; omega) (by omega) hnear

/-- R207: the radii correct the header and the payload, and the whole encoded checksum is that of the payload. -/
theorem holdsFrame_of_received (henc : lawL1 c.val.nibbleTable enc) (hh : h.length = 13) (hp : p.length ≤ 239) :
    HoldsFrame c.val h p (headerErrors c.val body sent) (payloadErrors c.val p.length body sent)
      (decodeBody c.val body off) := by
  have hpayload := decodeBody_payload_of_received (off := off) hsent hbody hp
  refine ⟨decodeBody_header_of_received hsent hbody hh, hpayload, ?_, ?_⟩
  · rw [decodeBody_rxCrc (hbody.length.trans hsent.length), hbody.checksum, hsent.checksum, recover_encodeChecksum henc]
  · rw [decodeBody_refCrc, hpayload]

theorem decodeFrame_of_received (hp : p.length ≤ 239) :
    decodeFrame c.val body off = .record (decodeBody c.val body off) := by
  have hlen : body.length = 36 + p.length := hbody.length.trans hsent.length
  exact decodeFrame_of_legal (by omega) (by omega)

end Within

/-- Settles O57: the body is one received for the built one. -/
theorem wrongBytesWithinTheRadiusStayClean : Obligations.WrongBytesWithinTheRadiusStayClean := by
  intro c enc h p body spare off henc hh hp sent b hErr pErr hlen hheader hpayload hchecksum
  have hsent : BuiltFields c.val enc h p sent := builtFields_buildBody c.val enc hh p spare
  have hbody : ReceivedBody c.val p.length sent body := ⟨hlen, hheader, hpayload, hchecksum⟩
  have hr := holdsFrame_of_received (off := off) hsent hbody henc hh hp
  exact ⟨_, decodeFrame_of_received hsent hbody hp, hr.flags, hr.header, hr.payload⟩

/-! ### A body as it was built -/

theorem holdsFrame_buildBody (off : Nat) (henc : lawL1 c.val.nibbleTable enc) (hh : h.length = 13) (hp : p.length ≤ 239)
    (spare : Byte) : HoldsFrame c.val h p 0 0 (decodeBody c.val (buildBody c.val enc h p spare) off) := by
  have hr := holdsFrame_of_received (off := off) (builtFields_buildBody c.val enc hh p spare) (receivedBody_self _ _ _) henc hh hp
  rwa [headerErrors, payloadErrors, blockDist_self, blockDist_self] at hr

theorem decodeFrame_buildBody (c : ValidConfig) (enc : BitVec 4 → Byte) (off : Nat) (hh : h.length = 13) (hp : p.length ≤ 239)
    (spare : Byte) : decodeFrame c.val (buildBody c.val enc h p spare) off =
      .record (decodeBody c.val (buildBody c.val enc h p spare) off) :=
  decodeFrame_of_received (builtFields_buildBody c.val enc hh p spare) (receivedBody_self _ _ _) hp

/-- Settles O56: a built body is received as it was sent. -/
theorem builtBodyDecodesClean : Obligations.BuiltBodyDecodesClean := by
  intro c enc h p spare off henc hh hp
  have hr := holdsFrame_buildBody off henc hh hp spare
  refine ⟨_, decodeFrame_buildBody c enc off hh hp spare, hr.flags, hr.header, hr.payload, ?_, rfl, hr.checksum, hr.reference⟩
  show (buildBody c.val enc h p spare).length - 36 = p.length
  rw [(builtFields_buildBody c.val enc hh p spare).length, Nat.add_sub_cancel_left]

/-! ### Captures of built frames -/

theorem HoldsFrame.isClean {c : Config} {hErr pErr : Nat} {r : Record} (hr : HoldsFrame c h p hErr pErr r) :
    (FrameResult.record r).isClean = true := by
  rw [FrameResult.isClean, hr.flags]
  rfl

/-- Where every frame is a clean record, the totals are the number of frames, 0 and 0, and the drop log is empty (R199). -/
theorem counts_of_clean {fs : List (Nat × FrameResult)} (hclean : ∀ f ∈ fs, f.2.isClean = true) :
    countClean fs = fs.length ∧ countDegraded fs = 0 ∧ countDropped fs = 0 := by
  have hall : countClean fs = fs.length := List.countP_eq_length.2 hclean
  have hsum := countClean_add_countDegraded_add_countDropped fs
  exact ⟨hall, by omega, by omega⟩

/-- PA.CAPT of a capture whose frames are three clean records (R199, R200). -/
theorem exec_paCapt_of_three {s : State} {cap : Bytes} {o1 o2 o3 : Nat} {r1 r2 r3 : Record}
    (hlen : cap.length ≤ s.cfg.val.maxOperand)
    (hframes : captureFrames s.cfg.val cap = [(o1, .record r1), (o2, .record r2), (o3, .record r3)])
    (hclean : ∀ f ∈ captureFrames s.cfg.val cap, f.2.isClean = true) :
    exec (.paCapt cap) s = .next (answer { s with cnt := { s.cnt with clean := s.cnt.clean + 3#32 } } 0x00#8
      (u32be 3#32 ++ r1.bytes ++ r2.bytes ++ r3.bytes ++ u32be 3#32 ++ u32be 0#32 ++ u32be 0#32)) := by
  obtain ⟨hc, hd, hx⟩ := counts_of_clean hclean
  rw [exec_paCapt_of_le hlen, captureResult, hc, hd, hx, State.countFrames, Counters.addFrames_clean_only, hframes]
  simp [FrameResult.recordBytes, FrameResult.dropEntry]

/-- Settles O58: the frames of the capture are the three bodies (R209), each decoded as it was built. -/
theorem threeBuiltFramesDecode : Obligations.ThreeBuiltFramesDecode := by
  intro s enc h1 p1 h2 p2 h3 p3 x1 x2 x3 henc hh1 hh2 hh3 hp1 hp2 hp3 f1 f2 f3 cap hf1 hf2 hf3 hlen
  have hcap : cap = markedBodies [f1, f2, f3] := by simp [cap, markedBodies]
  have hframes : captureFrames s.cfg.val cap = placedBodies s.cfg.val 0 [f1, f2, f3] :=
    hcap ▸ captureOfMarkedBodies s.cfg.val [] [f1, f2, f3] rfl (by simp [hf1, hf2, hf3])
  simp only [placedBodies] at hframes
  rw [decodeFrame_buildBody s.cfg enc _ hh1 hp1 x1, decodeFrame_buildBody s.cfg enc _ hh2 hp2 x2,
    decodeFrame_buildBody s.cfg enc _ hh3 hp3 x3] at hframes
  have hr1 := holdsFrame_buildBody 0 henc hh1 hp1 x1
  have hr2 := holdsFrame_buildBody (0 + 4 + f1.length) henc hh2 hp2 x2
  have hr3 := holdsFrame_buildBody (0 + 4 + f1.length + 4 + f2.length) henc hh3 hp3 x3
  refine ⟨_, _, _, exec_paCapt_of_three hlen hframes ?_, ⟨hr1.flags, hr1.header, hr1.payload⟩,
    ⟨hr2.flags, hr2.header, hr2.payload⟩, ⟨hr3.flags, hr3.header, hr3.payload⟩⟩
  rw [hframes]
  simp [hr1.isClean, hr2.isClean, hr3.isClean]

end Sys2Proof.Machine
end

section
/-! Exceptions (60_exceptions.md rules R228 to R242): every step goes on to a next state, an illegal opcode is answered, and an error
leaves the state as it was but for the changes R230 lists. -/

namespace Sys2Proof.Machine

variable {s t : State} {i : Instr}

/-! ### Nothing stops the block -/

theorem step_total (s : State) : ∃ t, step s = .next t := by
  cases hfetch : s.fetch with
  | command i n =>
    rw [step_of_command hfetch]
    exact exec_total i _
  | illegalOpcode opc n => exact ⟨_, step_of_illegalOpcode hfetch⟩
  | incomplete => exact ⟨s, step_of_incomplete hfetch⟩

/-- Settles O8. -/
theorem everyStepCompletes : Obligations.EveryStepCompletes := ⟨exec_total, step_total⟩

/-! ### Illegal opcodes -/

theorem raise_illegalOpcode (s : State) : s.raise .illegalOpcode = commandError s 0x80#8 := rfl

/-- The parser reads an illegal opcode's packet whole, whatever its operand (R67, R71). -/
theorem fetch_of_listedIllegal {opc : Byte} {op rest : Bytes} (hill : listedIllegal opc) (hop : op.length < 2 ^ 32)
    (hpending : s.pending = commandPacket opc op ++ rest) : s.fetch = .illegalOpcode opc (5 + op.length) := by
  rw [State.fetch, hpending, decode_commandPacket_append hop, readPacket, decodeOpcode_eq_none_iff.2 hill]

/-- Settles O6: the packet is read by `fetch_of_listedIllegal` and answered by `step_of_illegalOpcode`. -/
theorem illegalOpcodeIsAnswered : Obligations.IllegalOpcodeIsAnswered := by
  intro s opc op rest hill hop hpending
  rw [step_of_illegalOpcode (fetch_of_listedIllegal hill hop hpending), raise_illegalOpcode]
  rfl

/-! ### The errors of the deframer -/

/-- The three errors of the deframer: each discards the frame and keeps the address; a sentinel in mid-escape begins the next
frame, after the other two the deframer hunts (R101, R102). -/
inductive RxFailure (rx : Deframer) : RxOutcome → Prop
  | incompleteEscape :
      RxFailure rx { status := .incompleteEscape, result := [], rx := { rx with state := .addr, buf := [] } }
  | invalidEscape : RxFailure rx { status := .invalidEscape, result := [], rx := { rx with state := .hunt, buf := [] } }
  | overflow : RxFailure rx { status := .rxOverflow, result := [], rx := { rx with state := .hunt, buf := [] } }

theorem Status.ok_not_isError : ¬Status.ok.isError = true := by decide
theorem Status.okFrame_not_isError : ¬Status.okFrame.isError = true := by decide

section Deframer

variable {rx : Deframer} {m : Nat} {b : Byte}

theorem rxFailure_of_rxAppend (h : (rxAppend m rx b).status.isError = true) : RxFailure rx (rxAppend m rx b) := by
  rcases Nat.lt_or_ge rx.buf.length m with hroom | hfull
  · rw [rxAppend_of_lt hroom] at h
    exact absurd h Status.ok_not_isError
  · rw [rxAppend_of_le hfull]
    exact .overflow

theorem rxFailure_of_rxData (h : (rxData m rx b).status.isError = true) : RxFailure rx (rxData m rx b) := by
  unfold rxData at h ⊢
  split at h
  · exact absurd h Status.okFrame_not_isError
  · split at h
    · exact absurd h Status.ok_not_isError
    · rw [if_neg ‹_›, if_neg ‹_›]
      exact rxFailure_of_rxAppend h

theorem rxFailure_of_rxEsc (h : (rxEsc m rx b).status.isError = true) : RxFailure rx (rxEsc m rx b) := by
  unfold rxEsc at h ⊢
  split
  · rw [if_pos ‹_›] at h
    exact rxFailure_of_rxAppend h
  · rw [if_neg ‹_›] at h
    split
    · rw [if_pos ‹_›] at h
      exact rxFailure_of_rxAppend h
    · split
      · exact .incompleteEscape
      · exact .invalidEscape

/-- Outside a frame nothing can fail (R98, R99). -/
theorem deframerStep_failure (h : (deframerStep m rx b).status.isError = true) : RxFailure rx (deframerStep m rx b) := by
  cases hstate : rx.state with
  | hunt =>
    rw [deframerStep_of_hunt m b hstate, rxHunt_eq] at h
    exact absurd h Status.ok_not_isError
  | addr =>
    rw [deframerStep_of_addr m b hstate, rxAddr_eq] at h
    exact absurd h Status.ok_not_isError
  | data =>
    rw [deframerStep_of_data m b hstate] at h ⊢
    exact rxFailure_of_rxData h
  | esc =>
    rw [deframerStep_of_esc m b hstate] at h ⊢
    exact rxFailure_of_rxEsc h

end Deframer

/-! ### What an error changes -/

/-- R230's list: the status an error leaves in `LAST_STS`, with the deframer and the counters it leaves. -/
inductive ErrorChange (s : State) : Instr → Byte → Deframer → Counters → Prop
  /-- R230 b. -/
  | commandError {i : Instr} {sts : Byte} : sts ∈ [0x81#8, 0x82#8] →
      ErrorChange s i sts s.rx { s.cnt with cmdErrors := s.cnt.cmdErrors + 1#32 }
  /-- R230 a alone: FC.UNESC, FEC.HDEC, FEC.PDEC. -/
  | decodeError {i : Instr} {sts : Byte} : isFcRx i = false → sts ∈ [0x90#8, 0x91#8, 0xA0#8] →
      ErrorChange s i sts s.rx s.cnt
  /-- R230 c. -/
  | rxError {b sts : Byte} : sts ∈ [0x90#8, 0x91#8, 0x92#8] →
      ErrorChange s (.fcRx [b]) sts
        { state := if sts = 0x90#8 then .addr else .hunt, addr := s.rx.addr, buf := [] }
        { s.cnt with rxErrors := s.cnt.rxErrors + 1#32 }
  /-- R230 d. -/
  | drop {op : Bytes} {sts : Byte} : sts ∈ [0xB0#8, 0xB1#8] →
      ErrorChange s (.paFrame op) sts s.rx { s.cnt with dropped := s.cnt.dropped + 1#32 }

/-- The command has ended in an error: an empty response, and besides `LAST_STS` a change that R230 lists. -/
def EndsInError (s : State) (i : Instr) (t : State) : Prop :=
  ∃ sts rx cnt, t = answer { s with rx := rx, cnt := cnt } sts [] ∧ ErrorChange s i sts rx cnt

theorem endsInError_finishRx {o : RxOutcome} (b : Byte) (h : RxFailure s.rx o) :
    EndsInError s (.fcRx [b]) (s.finishRx o) := by
  cases h with
  | incompleteEscape => exact ⟨0x90#8, _, _, finishRx_error s rfl _, .rxError (by decide)⟩
  | invalidEscape => exact ⟨0x91#8, _, _, finishRx_error s rfl _, .rxError (by decide)⟩
  | overflow => exact ⟨0x92#8, _, _, finishRx_error s rfl _, .rxError (by decide)⟩

/-- A record is no error, and the two reasons for a drop are (R189, R226). -/
theorem endsInError_finishFrame {op : Bytes} {c : Config} {off : Nat}
    (h : (s.finishFrame (decodeFrame c op off)).lastSts.getLsbD 7 = true) :
    EndsInError s (.paFrame op) (s.finishFrame (decodeFrame c op off)) := by
  rcases decodeFrame_cases c op off with ⟨-, hd⟩ | ⟨-, hd⟩ | ⟨-, -, hd⟩ <;> rw [hd] at h ⊢
  · exact ⟨0xB0#8, _, _, finishFrame_drop rfl s, .drop (by decide)⟩
  · exact ⟨0xB1#8, _, _, finishFrame_drop rfl s, .drop (by decide)⟩
  · rw [finishFrame_record] at h
    exact absurd h Status.ok_not_isError

/-- A command other than REG.RD whose status has bit 7 set (R227) has ended in an error. -/
theorem exec_endsInError (hrd : isRegRd i = false) (h : exec i s = .next t) (herr : t.lastSts.getLsbD 7 = true) :
    EndsInError s i t := by
  cases exec_commandEnd h with
  | registerRead => cases hrd
  | commandError _ _ hst =>
    rcases hst with rfl | rfl
    · exact ⟨0x81#8, _, _, raise_badLength s, .commandError (by decide)⟩
    · exact ⟨0x82#8, _, _, raise_badOperand s, .commandError (by decide)⟩
  | decodeError _ hrx _ hst =>
    rcases hst with rfl | rfl | rfl
    · exact ⟨0x90#8, _, _, raise_of_not_commandError rfl s, .decodeError hrx (by decide)⟩
    · exact ⟨0x91#8, _, _, raise_of_not_commandError rfl s, .decodeError hrx (by decide)⟩
    · exact ⟨0xA0#8, _, _, raise_of_not_commandError rfl s, .decodeError hrx (by decide)⟩
  | received b => exact endsInError_finishRx b (deframerStep_failure herr)
  | frameDecoded op => exact endsInError_finishFrame herr
  | completed | captureDecoded | deframerCleared | countersCleared | blockReset =>
    exact absurd herr Status.ok_not_isError

/-- REG.RD writes the response port alone, even when it fails (R34, R230). -/
theorem exec_regRd_frame {op : Bytes} (h : exec (.regRd op) s = .next t) : t = { s with rspStream := t.rspStream } := by
  cases exec_commandEnd h with
  | registerRead => rfl
  | commandError hrd | decodeError hrd | completed _ hrd => cases hrd

/-- Settles O20: the ports by the one shape of `EndsInError`, the rest by the kind of error, whose statuses tell the clauses apart
but for 0x90 and 0x91, which FC.RX and FC.UNESC share. -/
theorem errorsLeaveOnlyTheListedChanges : Obligations.ErrorsLeaveOnlyTheListedChanges := by
  refine ⟨fun i s t hrd h herr => ?_, fun op s t h => exec_regRd_frame h, fun s opc n hfetch => ?_⟩
  · obtain ⟨sts, rx, cnt, rfl, hchange⟩ := exec_endsInError hrd h herr
    refine ⟨rfl, rfl, rfl, rfl, ?_⟩
    simp only [answer]
    cases hchange with
    | commandError hsts | drop hsts =>
      simp only [List.mem_cons, List.not_mem_nil, or_false] at hsts
      rcases hsts with rfl | rfl <;> simp
    | decodeError hrx hsts =>
      simp only [List.mem_cons, List.not_mem_nil, or_false] at hsts
      rcases hsts with rfl | rfl | rfl <;> simp [hrx]
    | rxError hsts =>
      simp only [List.mem_cons, List.not_mem_nil, or_false] at hsts
      rcases hsts with rfl | rfl | rfl <;> simp [isFcRx]
  · rw [step_of_illegalOpcode hfetch, raise_illegalOpcode]
    rfl

end Sys2Proof.Machine
end
